-- ==== Sys2Proof/Word.lean ====
section
/-! DEFINITION. The words of the K1600 engine (00_scope.md R7, R9) and the names of its small codes: the variants (R5), the
opcodes a running command is known by (10_state.md R28) and the phases (30_encoding.md R76). -/

namespace Sys2Proof

/-- A byte of S, BLK or DOUT. -/
abbrev Byte := BitVec 8

/-- A lane: one 64-bit word of the 5 x 5 view (00_scope.md R12). -/
abbrev Lane := BitVec 64

/-- `Bytes n`: n bytes indexed from 0 (00_scope.md R9). -/
abbrev Bytes (n : Nat) := Vector Byte n

/-- The 25 lanes, indexed 0..24 (00_scope.md R9). -/
abbrev Lanes := Vector Lane 25

/-- A command word on the `cmd` port (30_encoding.md R70). -/
abbrev CmdWord := BitVec 16

/-- `0^n`: n zero bytes. -/
def zeroBytes (n : Nat) : Bytes n := Vector.replicate n 0#8

/-- The four variants, in the order of their VSEL numbers 0..3 (00_scope.md R5). -/
inductive Variant where
  | sha3_224
  | sha3_256
  | sha3_384
  | sha3_512
  deriving DecidableEq, Repr

/-- What SEQ.OPC holds: the opcode of the command being run, `none` when idle (10_state.md R28). -/
inductive Opc where
  | none
  | init
  | reset
  | absorb
  | final
  | ctxrd
  | ctxwr
  deriving DecidableEq, Repr, Inhabited

/-- The codes SEQ.PHASE can hold (30_encoding.md R76): IDLE and the thirteen step units. 0xE and 0xF are never entered (45_sequencer.md
R171) and have no name here (DESIGN CHOICE, safe: log 12). -/
inductive Phase where
  | idle
  | uZero
  | uXorin
  | uB2l
  | uTheta
  | uRhopi
  | uChi
  | uIota
  | uL2b
  | uPad
  | uExtract
  | uNewblk
  | uCtxout
  | uCtxin
  deriving DecidableEq, Repr, Inhabited

end Sys2Proof
end

