-- ==== Sys2Proof/Syntax.lean ====
section
/-! DEFINITION. The instructions: one constructor per row of spec/opcode_table.json, six host commands (30_encoding.md R71) and the
fourteen phase codes of the sequencer (R76). -/

namespace Sys2Proof

/-- One constructor per row of the opcode table. A data operand (`blk_in`, `ctx_in`) is no part of the word: the machine samples it
from the ports at acceptance (30_encoding.md R70, R74). -/
inductive Instr where
  /-- INIT v (R90). -/
  | init (v : Variant)
  /-- RESET (R91). -/
  | reset
  /-- ABSORB len (R100); `len` is an unsigned byte count of 8 bits (R73). -/
  | absorb (len : Nat)
  /-- FINAL len (R110). -/
  | final (len : Nat)
  /-- CTXRD (R92). -/
  | ctxrd
  /-- CTXWR v (R93). -/
  | ctxwr (v : Variant)
  /-- IDLE (R162): waiting for a command. -/
  | idle
  /-- U_ZERO (R94). -/
  | uZero
  /-- U_XORIN (R101). -/
  | uXorin
  /-- U_B2L (R150). -/
  | uB2l
  /-- U_THETA (R131). -/
  | uTheta
  /-- U_RHOPI (R133). -/
  | uRhopi
  /-- U_CHI (R135). -/
  | uChi
  /-- U_IOTA (R136). -/
  | uIota
  /-- U_L2B (R151). -/
  | uL2b
  /-- U_PAD (R113). -/
  | uPad
  /-- U_EXTRACT (R115). -/
  | uExtract
  /-- U_NEWBLK (R114). -/
  | uNewblk
  /-- U_CTXOUT (R95). -/
  | uCtxout
  /-- U_CTXIN (R96). -/
  | uCtxin
  deriving DecidableEq, Repr

end Sys2Proof
end

