-- ==== Sys2Proof/WellFormed.lean ====
section
/-! DEFINITION. Which instructions the encodings of 30_encoding.md can express. -/

namespace Sys2Proof

/-- `len` fits the 8-bit field of the command word (30_encoding.md R70, R73). -/
def lenFits (len : Nat) : Bool := decide (len < 256)

/-- An instruction that has an encoding. Only the `len` of ABSORB and FINAL can fail: every variant is legal (R72) and the other
rows have no operand. A `len` the command faults on (R183, R185) is well-formed: its word exists. -/
def WellFormed : Instr → Bool
  | .init _ => true
  | .reset => true
  | .absorb len => lenFits len
  | .final len => lenFits len
  | .ctxrd => true
  | .ctxwr _ => true
  | .idle => true
  | .uZero => true
  | .uXorin => true
  | .uB2l => true
  | .uTheta => true
  | .uRhopi => true
  | .uChi => true
  | .uIota => true
  | .uL2b => true
  | .uPad => true
  | .uExtract => true
  | .uNewblk => true
  | .uCtxout => true
  | .uCtxin => true

end Sys2Proof
end

