-- ==== Sys2Proof/Decode.lean ====
section
/-! DEFINITION. The encodings of 30_encoding.md: the decoder of command words and of phase codes, total, rejecting by name; the encoder,
written from the same tables; the rows of the opcode table as data (R71, R80). -/

namespace Sys2Proof

/-! ## Codes -/

/-- The VSEL number of a variant (00_scope.md R5). -/
def Variant.code : Variant → BitVec 2
  | .sha3_224 => 0
  | .sha3_256 => 1
  | .sha3_384 => 2
  | .sha3_512 => 3

/-- The variant a `vsel` field names: all four values are legal (30_encoding.md R72). -/
def Variant.ofCode (c : BitVec 2) : Variant :=
  if c = 0 then .sha3_224 else if c = 1 then .sha3_256 else if c = 2 then .sha3_384 else .sha3_512

/-- The opcode value of a running command, 0 when idle (30_encoding.md R71, 10_state.md R28). -/
def Opc.code : Opc → BitVec 4
  | .none => 0x0
  | .init => 0x1
  | .reset => 0x2
  | .absorb => 0x3
  | .final => 0x4
  | .ctxrd => 0x5
  | .ctxwr => 0x6

/-- The code of a phase (30_encoding.md R76). -/
def Phase.code : Phase → BitVec 4
  | .idle => 0x0
  | .uZero => 0x1
  | .uXorin => 0x2
  | .uB2l => 0x3
  | .uTheta => 0x4
  | .uRhopi => 0x5
  | .uChi => 0x6
  | .uIota => 0x7
  | .uL2b => 0x8
  | .uPad => 0x9
  | .uExtract => 0xA
  | .uNewblk => 0xB
  | .uCtxout => 0xC
  | .uCtxin => 0xD

/-- The row of the opcode table that names a phase. -/
def Phase.instr : Phase → Instr
  | .idle => .idle
  | .uZero => .uZero
  | .uXorin => .uXorin
  | .uB2l => .uB2l
  | .uTheta => .uTheta
  | .uRhopi => .uRhopi
  | .uChi => .uChi
  | .uIota => .uIota
  | .uL2b => .uL2b
  | .uPad => .uPad
  | .uExtract => .uExtract
  | .uNewblk => .uNewblk
  | .uCtxout => .uCtxout
  | .uCtxin => .uCtxin

/-! ## The fields of a command word (30_encoding.md R70) -/

def opcField (w : CmdWord) : BitVec 4 := w.extractLsb' 12 4
def vselField (w : CmdWord) : BitVec 2 := w.extractLsb' 10 2
def rsvField (w : CmdWord) : BitVec 2 := w.extractLsb' 8 2
def lenField (w : CmdWord) : BitVec 8 := w.extractLsb' 0 8

/-! ## Decoding -/

/-- Why a code is no instruction (30_encoding.md R75 for command words, R76 for phase codes). -/
inductive BadCode where
  /-- `opc` is one of 0x0, 0x7 .. 0xF. -/
  | unassignedOpcode
  /-- `rsv` is not 0. -/
  | reservedField
  /-- `vsel` is not 0 in a command that does not use it. -/
  | unusedVsel
  /-- `len` is not 0 in a command that does not use it. -/
  | unusedLen
  /-- A phase code 0xE or 0xF. -/
  | reservedPhase
  deriving DecidableEq, Repr

/-- A command that uses neither field (RESET, CTXRD). -/
def decodePlain (i : Instr) (w : CmdWord) : Except BadCode Instr :=
  if rsvField w ≠ 0 then .error .reservedField
  else if vselField w ≠ 0 then .error .unusedVsel
  else if lenField w ≠ 0 then .error .unusedLen
  else .ok i

/-- A command that uses `vsel` only (INIT, CTXWR). -/
def decodeVsel (mk : Variant → Instr) (w : CmdWord) : Except BadCode Instr :=
  if rsvField w ≠ 0 then .error .reservedField
  else if lenField w ≠ 0 then .error .unusedLen
  else .ok (mk (Variant.ofCode (vselField w)))

/-- A command that uses `len` only (ABSORB, FINAL); `len` is unsigned (30_encoding.md R73). -/
def decodeLen (mk : Nat → Instr) (w : CmdWord) : Except BadCode Instr :=
  if rsvField w ≠ 0 then .error .reservedField
  else if vselField w ≠ 0 then .error .unusedVsel
  else .ok (mk (lenField w).toNat)

/-- The command a word is, by the rows of 30_encoding.md R71; every other word is illegal (R75). -/
def decodeCommand (w : CmdWord) : Except BadCode Instr :=
  if opcField w = 0x1 then decodeVsel .init w
  else if opcField w = 0x2 then decodePlain .reset w
  else if opcField w = 0x3 then decodeLen .absorb w
  else if opcField w = 0x4 then decodeLen .final w
  else if opcField w = 0x5 then decodePlain .ctxrd w
  else if opcField w = 0x6 then decodeVsel .ctxwr w
  else .error .unassignedOpcode

/-- The phase of a code (30_encoding.md R76); 0xE and 0xF are reserved. -/
def decodePhase (c : BitVec 4) : Except BadCode Phase :=
  if c = 0x0 then .ok .idle
  else if c = 0x1 then .ok .uZero
  else if c = 0x2 then .ok .uXorin
  else if c = 0x3 then .ok .uB2l
  else if c = 0x4 then .ok .uTheta
  else if c = 0x5 then .ok .uRhopi
  else if c = 0x6 then .ok .uChi
  else if c = 0x7 then .ok .uIota
  else if c = 0x8 then .ok .uL2b
  else if c = 0x9 then .ok .uPad
  else if c = 0xA then .ok .uExtract
  else if c = 0xB then .ok .uNewblk
  else if c = 0xC then .ok .uCtxout
  else if c = 0xD then .ok .uCtxin
  else .error .reservedPhase

/-- The two places an instruction's bits can stand: the `cmd` port (format CMD) and SEQ.PHASE (format PHASE). -/
inductive Code where
  | cmd (w : CmdWord)
  | phase (c : BitVec 4)
  deriving DecidableEq, Repr

/-- The decoder, total on every code of either format. -/
def decode : Code → Except BadCode Instr
  | .cmd w => decodeCommand w
  | .phase c => (decodePhase c).map Phase.instr

/-! ## Encoding -/

/-- A command word from its fields; `rsv` is 0 (30_encoding.md R70). -/
def cmdWord (opc : Opc) (vsel : BitVec 2) (len : BitVec 8) : CmdWord :=
  opc.code ++ vsel ++ 0#2 ++ len

/-- The code of an instruction, from the tables of 30_encoding.md R71 and R76. -/
def encode : Instr → Code
  | .init v => .cmd (cmdWord .init v.code 0)
  | .reset => .cmd (cmdWord .reset 0 0)
  | .absorb len => .cmd (cmdWord .absorb 0 (BitVec.ofNat 8 len))
  | .final len => .cmd (cmdWord .final 0 (BitVec.ofNat 8 len))
  | .ctxrd => .cmd (cmdWord .ctxrd 0 0)
  | .ctxwr v => .cmd (cmdWord .ctxwr v.code 0)
  | .idle => .phase Phase.idle.code
  | .uZero => .phase Phase.uZero.code
  | .uXorin => .phase Phase.uXorin.code
  | .uB2l => .phase Phase.uB2l.code
  | .uTheta => .phase Phase.uTheta.code
  | .uRhopi => .phase Phase.uRhopi.code
  | .uChi => .phase Phase.uChi.code
  | .uIota => .phase Phase.uIota.code
  | .uL2b => .phase Phase.uL2b.code
  | .uPad => .phase Phase.uPad.code
  | .uExtract => .phase Phase.uExtract.code
  | .uNewblk => .phase Phase.uNewblk.code
  | .uCtxout => .phase Phase.uCtxout.code
  | .uCtxin => .phase Phase.uCtxin.code

/-! ## The rows of the table as data -/

/-- A row of 30_encoding.md R71: a word w is that command iff `(w & mask) == match`. -/
structure CmdRow where
  mnemonic : String
  matchBits : CmdWord
  mask : CmdWord
  deriving DecidableEq, Repr

/-- The six rows of 30_encoding.md R71. -/
def cmdRows : List CmdRow :=
  [⟨"INIT", 0x1000, 0xF3FF⟩, ⟨"RESET", 0x2000, 0xFFFF⟩, ⟨"ABSORB", 0x3000, 0xFF00⟩,
   ⟨"FINAL", 0x4000, 0xFF00⟩, ⟨"CTXRD", 0x5000, 0xFFFF⟩, ⟨"CTXWR", 0x6000, 0xF3FF⟩]

/-- The word is that row's command. -/
def CmdRow.matchesWord (r : CmdRow) (w : CmdWord) : Bool := (w &&& r.mask) == r.matchBits

/-- The instruction's row of spec/opcode_table.json, by its mnemonic. -/
def Instr.mnemonic : Instr → String
  | .init _ => "INIT"
  | .reset => "RESET"
  | .absorb _ => "ABSORB"
  | .final _ => "FINAL"
  | .ctxrd => "CTXRD"
  | .ctxwr _ => "CTXWR"
  | .idle => "IDLE"
  | .uZero => "U_ZERO"
  | .uXorin => "U_XORIN"
  | .uB2l => "U_B2L"
  | .uTheta => "U_THETA"
  | .uRhopi => "U_RHOPI"
  | .uChi => "U_CHI"
  | .uIota => "U_IOTA"
  | .uL2b => "U_L2B"
  | .uPad => "U_PAD"
  | .uExtract => "U_EXTRACT"
  | .uNewblk => "U_NEWBLK"
  | .uCtxout => "U_CTXOUT"
  | .uCtxin => "U_CTXIN"

/-! ## The table's numbering of an instruction's bits -/

/-- The code a table row's bits stand for: a row of format CMD has 16 bits, one of format PHASE has 4, in whole bytes 8 (log 19). -/
def tableCode (nbits w : Nat) : Option Code :=
  if nbits = 16 then (if w < 65536 then some (.cmd (BitVec.ofNat 16 w)) else none)
  else if nbits = 8 ∨ nbits = 4 then (if w < 16 then some (.phase (BitVec.ofNat 4 w)) else none)
  else none

/-- The instruction the decoder reads from an instruction whose bits are w. -/
def decodeTableWord (nbits w : Nat) : Option Instr :=
  match tableCode nbits w with
  | none => none
  | some c =>
    match decode c with
    | .ok i => some i
    | .error _ => none

end Sys2Proof
end

