-- ==== Sys2Proof/Config.lean ====
section
/-! DEFINITION. What the spec leaves to the implementation: the parameter P_FULLBLOCK_FINAL (its value stands in State, log 5), and the
free values of two cases no run reaches (log 10, log 11). -/

namespace Sys2Proof

/-- The parameter P_FULLBLOCK_FINAL (00_scope.md R6; 42_pad_final.md R111; 90_conflicts.md C1): what FINAL does when `len == rate`. -/
inductive FullBlockFinal where
  /-- Absorb the full block, then pad an empty one (the spec's default). -/
  | extraBlock
  /-- Raise E_PAD_INTERNAL. -/
  | fatal
  deriving DecidableEq, Repr

/-- FREE VALUE (log 10, safe). The phase that follows U_L2B when OPC is neither ABSORB nor FINAL: 45_sequencer.md R161 has no such
row. Nothing is known of it. -/
opaque Config.strayPhase : Opc → Phase

/-- FREE VALUE (log 11, safe). What BLK holds after U_PAD fired with LEN outside 0..rate-1, as a function of VSEL, LEN and BLK:
42_pad_final.md R113 gives U_PAD for LEN in 0..rate-1 only. Nothing is known of it. -/
opaque Config.padOutOfRange : Variant → Byte → Bytes 144 → Bytes 144

end Sys2Proof
end

