-- ==== Sys2Proof/Machine/State.lean ====
section
/-! DEFINITION. The state of the machine: everything 10_state.md gives an instance, its ports (R31), the NINST instances of a system
(60_exceptions.md R200), and its value after hard reset (R34). Plain data throughout. -/

namespace Sys2Proof.Machine

/-- The cause codes that are raised (60_exceptions.md R180); 6..15 never are and have no name (log 12). -/
inductive Cause where
  /-- 0: no fault. -/
  | none
  /-- 1: E_ILLEGAL_CMD (R181). -/
  | illegalCmd
  /-- 2: E_UNBOUND (R182). -/
  | unbound
  /-- 3: E_BLOCK_LEN (R183). -/
  | blockLen
  /-- 4: E_VALID_LEN (R185). -/
  | validLen
  /-- 5: E_PAD_INTERNAL (R186). -/
  | padInternal
  deriving DecidableEq, Repr

/-- The sequencer register SEQ (10_state.md R28), in its legal values: RND is 0..23 (R28, R171; log 12). -/
structure Seq where
  OPC : Opc
  PASS : Bool
  RND : Fin 24
  PHASE : Phase
  deriving DecidableEq, Repr

/-- SEQ at every command boundary and after hard reset: OPC=0, PASS=0, RND=0, PHASE=IDLE (10_state.md R30, R34). -/
def Seq.rest : Seq := { OPC := .none, PASS := false, RND := 0, PHASE := .idle }

/-- The outputs a response event carries (10_state.md R31, R32). -/
structure Response where
  status : BitVec 8
  rspDlen : BitVec 7
  dout : Bytes 64
  ctxVsel : BitVec 2
  ctxOut : Bytes 200
  deriving DecidableEq, Repr

/-- What the host does next on the ports of one instance, once nothing it did before is still pending (log 7). -/
inductive HostEvent where
  /-- It offers nothing for one step of the instance. -/
  | quiet
  /-- It asserts `rst`. -/
  | rst
  /-- It offers a command word with its data operands. -/
  | command (word : CmdWord) (blk : Bytes 144) (ctx : Bytes 200)
  deriving DecidableEq, Repr

/-- One engine instance (10_state.md). Registers carry the spec's names. -/
structure Engine where
  /-- STATUS bit 0 (R27). -/
  BOUND : Bool
  /-- STATUS bit 1 (R27). -/
  BUSY : Bool
  /-- STATUS bit 2 (R27). -/
  FAULT : Bool
  /-- STATUS bits 7:4 (R27). -/
  CAUSE : Cause
  /-- The variant register (R23). -/
  VSEL : Variant
  /-- SpongeState (R20). -/
  S : Bytes 200
  /-- The digest register (R25). -/
  DOUT : Bytes 64
  /-- LaneArray, the general registers (R21). -/
  A : Lanes
  /-- The block register (R24). -/
  BLK : Bytes 144
  /-- The length register (R26). -/
  LEN : Byte
  /-- The `ctx_in` value held for U_CTXIN (45_sequencer.md R162; log 4). -/
  CTX : Bytes 200
  /-- The sequencer register (R28). -/
  SEQ : Seq
  /-- Input port `rst` (R31): asserted and not yet acted on. -/
  rst : Bool
  /-- Input port `cmd_valid` (R31): a command is offered and not yet accepted. -/
  cmdValid : Bool
  /-- Input port `cmd` (R31). -/
  cmd : CmdWord
  /-- Input port `blk_in` (R31). -/
  blkIn : Bytes 144
  /-- Input port `ctx_in` (R31). -/
  ctxIn : Bytes 200
  /-- The response event of this instance's last step, with its outputs (R31, R32; log 8). -/
  rsp : Option Response
  /-- What the host has still to do on these ports, oldest first (the model's own; log 7). -/
  host : List HostEvent
  deriving DecidableEq, Repr

/-- The system: NINST instances and the parameter P_FULLBLOCK_FINAL. -/
structure State where
  /-- The instances numbered below `self`, in order. -/
  lower : List Engine
  /-- The instance that takes the next step. -/
  self : Engine
  /-- The instances numbered above `self`, in order. -/
  upper : List Engine
  /-- The instances that take the steps after the next one, oldest first (the model's own; log 6). -/
  turns : List Nat
  /-- P_FULLBLOCK_FINAL, fixed for a run (00_scope.md R6; log 5). -/
  fullBlock : FullBlockFinal
  deriving DecidableEq, Repr

/-- Reasons for the machine to stop with a fault. There are none: the engine's five faults (60_exceptions.md R180) are entries into
a state in which it goes on answering (R184, R189), so they are next states; no step unit can fault (R191) and nothing is stuck
(R172). Safe: no step is missing (log 13). -/
inductive Fault where
  deriving DecidableEq, Repr

/-- Reasons for an instruction to have no meaning. -/
inductive Refusal where
  /-- Raised only by an arm of `exec` whose instruction has no meaning yet; no arm does. Safe: nothing follows of such a step. -/
  | notModelled (mnemonic : String)
  deriving DecidableEq, Repr

/-- An instance right after hard reset (10_state.md R34, 70_reset_and_hazards.md R210). VSEL, S, A, BLK, LEN and CTX have no value in
the spec; the zeros (and code 0) here are DESIGN CHOICE, unsafe: log 2, log 3. The ports are idle: log 7, log 9. -/
def Engine.reset : Engine where
  BOUND := false
  BUSY := false
  FAULT := false
  CAUSE := .none
  VSEL := .sha3_224
  S := zeroBytes 200
  DOUT := zeroBytes 64
  A := Vector.replicate 25 0#64
  BLK := zeroBytes 144
  LEN := 0
  CTX := zeroBytes 200
  SEQ := Seq.rest
  rst := false
  cmdValid := false
  cmd := 0
  blkIn := zeroBytes 144
  ctxIn := zeroBytes 200
  rsp := none
  host := []

/-- The machine right after reset, with the spec's defaults NINST = 1 and P_FULLBLOCK_FINAL = extra_block (00_scope.md R6). -/
def State.reset : State where
  lower := []
  self := Engine.reset
  upper := []
  turns := []
  fullBlock := .extraBlock

end Sys2Proof.Machine
end

