-- ==== Sys2Proof/Machine/Flags.lean ====
section
/-! DEFINITION. The STATUS register and the packed view of SEQ: the only flags of the engine (10_state.md R27, R28; 30_encoding.md R77).
No operation produces a carry, zero, sign or overflow flag (R27). -/

namespace Sys2Proof.Machine

/-- The cause code (60_exceptions.md R180). -/
def Cause.code : Cause → BitVec 4
  | .none => 0
  | .illegalCmd => 1
  | .unbound => 2
  | .blockLen => 3
  | .validLen => 4
  | .padInternal => 5

/-- STATUS, the `status` port (10_state.md R27): CAUSE in bits 7:4, bit 3 zero, FAULT, BUSY, BOUND. -/
def Engine.status (e : Engine) : BitVec 8 :=
  e.CAUSE.code ++ 0#1 ++ BitVec.ofBool e.FAULT ++ BitVec.ofBool e.BUSY ++ BitVec.ofBool e.BOUND

/-- The port `cmd_ready`: NOT BUSY (10_state.md R31). -/
def Engine.cmdReady (e : Engine) : Bool := !e.BUSY

/-- SEQ as its 14-bit value, OPC 13:10, PASS 9, RND 8:4, PHASE 3:0 (10_state.md R28). -/
def Seq.word (q : Seq) : BitVec 14 :=
  q.OPC.code ++ BitVec.ofBool q.PASS ++ BitVec.ofNat 5 q.RND.val ++ q.PHASE.code

end Sys2Proof.Machine
end

