-- ==== Sys2Proof/Machine/Operands.lean ====
section
/-! DEFINITION. The operands of the commands: the four quantities a variant fixes (00_scope.md R5, 10_state.md R23), the `len` checks
(30_encoding.md R73), the padding count (42_pad_final.md R111), and the sampling of the data ports (R74, 70_reset_and_hazards.md
R223). -/

namespace Sys2Proof

/-- rate(v), in bytes (00_scope.md R5). -/
def Variant.rate : Variant → Nat
  | .sha3_224 => 144
  | .sha3_256 => 136
  | .sha3_384 => 104
  | .sha3_512 => 72

/-- cap(v), in bytes (00_scope.md R5). -/
def Variant.cap : Variant → Nat
  | .sha3_224 => 56
  | .sha3_256 => 64
  | .sha3_384 => 96
  | .sha3_512 => 128

/-- dlen(v), in bytes (00_scope.md R5). -/
def Variant.dlen : Variant → Nat
  | .sha3_224 => 28
  | .sha3_256 => 32
  | .sha3_384 => 48
  | .sha3_512 => 64

/-- suffix(v): 0x06 for every variant (00_scope.md R5, 90_conflicts.md C5). -/
def Variant.suffix : Variant → Byte
  | .sha3_224 => 0x06
  | .sha3_256 => 0x06
  | .sha3_384 => 0x06
  | .sha3_512 => 0x06

/-- A rate fits the block register (10_state.md R24). -/
theorem Variant.rate_le (v : Variant) : v.rate ≤ 144 := by cases v <;> decide

/-- `dlen <= rate` (10_state.md R23, 42_pad_final.md R117). -/
theorem Variant.dlen_le_rate (v : Variant) : v.dlen ≤ v.rate := by cases v <;> decide

theorem Variant.rate_pos (v : Variant) : 0 < v.rate := by cases v <;> decide

theorem Variant.dlen_le (v : Variant) : v.dlen ≤ 64 := by cases v <;> decide

namespace Machine

/-- The padding count of a FINAL, a mathematical integer (42_pad_final.md R111): of the block that is actually padded. -/
def npad (p : FullBlockFinal) (rate len : Nat) : Int :=
  if len = rate ∧ p = .extraBlock then rate else (rate : Int) - len

/-- ABSORB's check (41_absorb.md R105, 60_exceptions.md R183). -/
def absorbCheck (len : Nat) (e : Engine) : Option Cause :=
  if len ≠ e.VSEL.rate then some .blockLen else none

/-- FINAL's checks, in order (42_pad_final.md R110; 60_exceptions.md R185, R186, R187). -/
def finalCheck (p : FullBlockFinal) (len : Nat) (e : Engine) : Option Cause :=
  if e.VSEL.rate < len then some .validLen
  else if npad p e.VSEL.rate len < 1 ∨ (e.VSEL.rate : Int) < npad p e.VSEL.rate len then some .padInternal
  else none

/-- The command has no check of its own. -/
def noCheck (_ : Engine) : Option Cause := none

/-- BLK and LEN loaded at acceptance: from `blk_in`, all 144 bytes, and the `len` field (10_state.md R24, R26). -/
def Engine.loadBlock (len : Nat) (e : Engine) : Engine :=
  { e with BLK := e.blkIn, LEN := BitVec.ofNat 8 len }

/-- The `ctx_in` value sampled at acceptance and held for U_CTXIN (45_sequencer.md R162). -/
def Engine.loadContext (e : Engine) : Engine := { e with CTX := e.ctxIn }

/-- VSEL and BOUND written at acceptance (40_variant_lifecycle.md R90, R93). -/
def Engine.bind (v : Variant) (e : Engine) : Engine := { e with VSEL := v, BOUND := true }

end Machine

end Sys2Proof
end

