-- ==== Sys2Proof/Machine/Ops.lean ====
section
/-! DEFINITION. The shared operations of an instance: responding, advancing the sequencer, taking a fault, the dead response, the checks of
an acceptance in their order, hard reset; and acting on the instance whose turn it is. -/

namespace Sys2Proof.Machine

/-! ## Responding (45_sequencer.md R161 "respond", 10_state.md R32) -/

/-- The outputs of a response event: with FAULT = 1 everything but `status` is zero (10_state.md R32). -/
def Engine.response (dlen : BitVec 7) (vsel : BitVec 2) (ctx : Bytes 200) (e : Engine) : Response :=
  if e.FAULT then ⟨e.status, 0, zeroBytes 64, 0, zeroBytes 200⟩
  else ⟨e.status, dlen, e.DOUT, vsel, ctx⟩

/-- A command boundary: SEQ at rest and BUSY = 0 (10_state.md R30, 45_sequencer.md R161). -/
def Engine.atRest (e : Engine) : Engine := { e with SEQ := Seq.rest, BUSY := false }

/-- Respond: SEQ at rest, BUSY = 0, and the response event raised with the outputs as they then stand (45_sequencer.md R161). -/
def Engine.finish (dlen : BitVec 7) (vsel : BitVec 2) (ctx : Bytes 200) (e : Engine) : Engine :=
  { e.atRest with rsp := some (e.atRest.response dlen vsel ctx) }

/-- Respond with no digest and no context. -/
def Engine.respond (e : Engine) : Engine := e.finish 0 0 (zeroBytes 200)

/-! ## The sequencer -/

/-- The next phase of a unit that does not end its command; no response event (45_sequencer.md R161). -/
def Engine.goTo (p : Phase) (e : Engine) : Engine :=
  { e with SEQ := { e.SEQ with PHASE := p }, rsp := none }

/-- The next phase where R161 gives none (a free value, log 10): IDLE is entered by responding, as everywhere in R161. -/
def Engine.goToStray (p : Phase) (e : Engine) : Engine :=
  match p with
  | .idle => e.respond
  | _ => e.goTo p

/-- Set the round index RND. -/
def Engine.setRnd (r : Fin 24) (e : Engine) : Engine := { e with SEQ := { e.SEQ with RND := r } }

/-- Start a micro-program: OPC, PASS and the first phase, RND = 0 (45_sequencer.md R162). -/
def Engine.launch (opc : Opc) (pass : Bool) (p : Phase) (e : Engine) : Engine :=
  { e with SEQ := { OPC := opc, PASS := pass, RND := 0, PHASE := p } }

/-! ## Taking a fault (60_exceptions.md R184) -/

/-- Fault entry with a cause: FAULT, CAUSE, DOUT zeroed, SEQ at rest, BUSY = 0, respond. S, VSEL and BOUND are kept; nothing is saved
anywhere else and there is no return (R184, R189). -/
def Engine.takeFault (c : Cause) (e : Engine) : Engine :=
  ({ e with FAULT := true, CAUSE := c, DOUT := zeroBytes 64 }).respond

/-! ## Acceptance (45_sequencer.md R162, 60_exceptions.md R187) -/

/-- The acceptance event itself: BUSY = 1, the offer is taken from the port, and no response is pending (45_sequencer.md R162). -/
def Engine.take (e : Engine) : Engine := { e with BUSY := true, cmdValid := false, rsp := none }

/-- A legal word accepted: dead engine first (R189: no state change, dead response), then the bound check for the commands that need it
(R182), then the command's own check, and only then does the command start (R187). -/
def Engine.accept (needsBound : Bool) (check : Engine → Option Cause) (start : Engine → Engine) (e : Engine) : Engine :=
  let e := e.take
  if e.FAULT then e.respond
  else if needsBound && !e.BOUND then e.takeFault .unbound
  else
    match check e with
    | some c => e.takeFault c
    | none => start e

/-- An illegal word accepted (R181): after the dead check, E_ILLEGAL_CMD. -/
def Engine.acceptIllegal (e : Engine) : Engine :=
  let e := e.take
  if e.FAULT then e.respond else e.takeFault .illegalCmd

/-! ## Hard reset (70_reset_and_hazards.md R210) -/

/-- `rst` acted on: every register at its hard-reset value, no response; what the host drives on the other ports stays (log 9). -/
def Engine.hardReset (e : Engine) : Engine :=
  { Engine.reset with
    cmdValid := e.cmdValid, cmd := e.cmd, blkIn := e.blkIn, ctxIn := e.ctxIn, host := e.host }

/-! ## The host's side of the ports (10_state.md R31; log 7) -/

/-- While a command or `rst` stands on the ports they stay; else the host does the next thing it has to do. -/
def Engine.hostMoves (e : Engine) : Engine :=
  if e.cmdValid || e.rst then e
  else
    match e.host with
    | [] => e
    | .quiet :: h => { e with host := h }
    | .rst :: h => { e with rst := true, host := h }
    | .command w b c :: h => { e with cmdValid := true, cmd := w, blkIn := b, ctxIn := c, host := h }

/-! ## The system of instances (60_exceptions.md R200) -/

/-- A micro-step of the instance whose turn it is; no other instance is touched (10_state.md R33). -/
def State.onSelf (f : Engine → Engine) (s : State) : State := { s with self := f s.self }

/-- All instances, in order of their numbers. -/
def State.instances (s : State) : List Engine := s.lower ++ s.self :: s.upper

/-- Single out instance k; a number that names no instance changes nothing. -/
def State.focus (k : Nat) (s : State) : State :=
  match s.instances.drop k with
  | [] => s
  | e :: rest => { s with lower := s.instances.take k, self := e, upper := rest }

/-- The turn passes to the instance named next in `turns`; with none named it stays (log 6). -/
def State.passTurn (s : State) : State :=
  match s.turns with
  | [] => s
  | k :: ks => { s.focus k with turns := ks }

end Sys2Proof.Machine
end

