-- ==== Sys2Proof/Machine/Lifecycle.lean ====
section
/-! DEFINITION. Variant selection and instance lifecycle (40_variant_lifecycle.md): INIT, RESET, CTXRD, CTXWR, U_ZERO, U_CTXOUT,
U_CTXIN. -/

namespace Sys2Proof.Machine

/-- INIT v accepted: VSEL and BOUND written at acceptance, then U_ZERO (R90, 45_sequencer.md R162). Legal on an unbound instance. -/
def acceptInit (v : Variant) : Engine → Engine :=
  Engine.accept false noCheck fun e => (e.bind v).launch .init false .uZero

/-- RESET accepted: U_ZERO, VSEL kept (R91). -/
def acceptReset : Engine → Engine :=
  Engine.accept true noCheck fun e => e.launch .reset false .uZero

/-- CTXRD accepted: U_CTXOUT (R92). -/
def acceptCtxrd : Engine → Engine :=
  Engine.accept true noCheck fun e => e.launch .ctxrd false .uCtxout

/-- CTXWR v accepted: VSEL and BOUND written, `ctx_in` held, then U_CTXIN (R93). Legal on an unbound instance. -/
def acceptCtxwr (v : Variant) : Engine → Engine :=
  Engine.accept false noCheck fun e => ((e.bind v).loadContext).launch .ctxwr false .uCtxin

/-- U_ZERO: S and DOUT zeroed; respond (R94). -/
def unitZero (e : Engine) : Engine := ({ e with S := zeroBytes 200, DOUT := zeroBytes 64 }).respond

/-- U_CTXOUT: VSEL and S to the ports with the response; no register written (R95). -/
def unitCtxout (e : Engine) : Engine := e.finish 0 e.VSEL.code e.S

/-- U_CTXIN: S from the held context, DOUT zeroed; respond (R96). -/
def unitCtxin (e : Engine) : Engine := ({ e with S := e.CTX, DOUT := zeroBytes 64 }).respond

/-- INIT v. -/
def execInit (v : Variant) (s : State) : Host.Outcome State Fault Refusal := .next (s.onSelf (acceptInit v))

/-- RESET. -/
def execReset (s : State) : Host.Outcome State Fault Refusal := .next (s.onSelf acceptReset)

/-- CTXRD. -/
def execCtxrd (s : State) : Host.Outcome State Fault Refusal := .next (s.onSelf acceptCtxrd)

/-- CTXWR v. -/
def execCtxwr (v : Variant) (s : State) : Host.Outcome State Fault Refusal := .next (s.onSelf (acceptCtxwr v))

/-- U_ZERO. -/
def execUZero (s : State) : Host.Outcome State Fault Refusal := .next (s.onSelf unitZero)

/-- U_CTXOUT. -/
def execUCtxout (s : State) : Host.Outcome State Fault Refusal := .next (s.onSelf unitCtxout)

/-- U_CTXIN. -/
def execUCtxin (s : State) : Host.Outcome State Fault Refusal := .next (s.onSelf unitCtxin)

end Sys2Proof.Machine
end

