-- ==== Sys2Proof/Machine/Permutation.lean ====
section
/-! DEFINITION. The permutation Keccak-f[1600] (43_permutation.md): the tables RC, ROT, PIDST, PISRC, the four step mappings as pure
functions and as units, Round, KeccakF. -/

namespace Sys2Proof.Machine

/-! ## Arithmetic and coordinates -/

/-- 64-bit left rotation (00_scope.md R8, 43_permutation.md R141). -/
def rotl64 (v : Lane) (n : Nat) : Lane := v.rotateLeft n

/-- `A[x,y]`, the lane at position 5*y + x, coordinates taken mod 5 (43_permutation.md R130). -/
def lane (a : Lanes) (x y : Nat) : Lane := a[5 * (y % 5) + x % 5]'(by omega)

/-! ## Tables (43_permutation.md R132, R137; PRESUMED by the spec's own account, log 15) -/

/-- The entries of a table given row by row: position 5*y + x holds entry x of row y (R130). -/
def byRows {α : Type} (y0 y1 y2 y3 y4 : Vector α 5) : Vector α 25 :=
  Vector.ofFn fun i => (#v[y0, y1, y2, y3, y4])[i.val / 5][i.val % 5]

/-- ROT[i]: left-rotation amount of the lane taken from source position i; one row of x = 0..4 for each y (R132). -/
def ROT : Vector Nat 25 :=
  byRows #v[0, 1, 62, 28, 27] #v[36, 44, 6, 55, 20] #v[3, 10, 43, 25, 39] #v[41, 45, 15, 21, 8] #v[18, 2, 61, 56, 14]

/-- PIDST[i]: the position the lane at source position i is written to; one row for each y (R132). -/
def PIDST : Vector (Fin 25) 25 :=
  byRows #v[0, 10, 20, 5, 15] #v[16, 1, 11, 21, 6] #v[7, 17, 2, 12, 22] #v[23, 8, 18, 3, 13] #v[14, 24, 9, 19, 4]

/-- PISRC[j]: the position the new lane at j comes from, the inverse of PIDST; one row for each y (R132). -/
def PISRC : Vector (Fin 25) 25 :=
  byRows #v[0, 6, 12, 18, 24] #v[3, 9, 10, 16, 22] #v[1, 7, 13, 19, 20] #v[4, 5, 11, 17, 23] #v[2, 8, 14, 15, 21]

/-- The set bits of the round constants: for each round the j in 0..6 whose bit position 2^j - 1 is set in RC[ir] (R137). -/
def rcBits : Vector (List Nat) 24 :=
  #v[[0], [1, 3, 4], [1, 2, 3, 4, 6], [4, 5, 6], [0, 1, 2, 3, 4], [0, 5], [0, 3, 4, 5, 6], [0, 2, 4, 6]] ++
  #v[[1, 2, 3], [2, 3], [0, 2, 4, 5], [1, 2, 5], [0, 1, 2, 3, 4, 5], [0, 1, 2, 3, 6], [0, 2, 3, 4, 6], [0, 1, 4, 6]] ++
  #v[[1, 4, 6], [3, 6], [1, 2, 4], [1, 2, 5, 6], [0, 3, 4, 5, 6], [3, 4, 6], [0, 5], [2, 4, 5, 6]]

/-- RC[ir]: the round constants (R137). -/
def RC : Vector Lane 24 :=
  Vector.ofFn fun ir => rcBits[ir].foldr (fun j w => BitVec.twoPow 64 (2 ^ j - 1) ||| w) 0

/-! ## The step mappings -/

/-- C[x], the parity of column x (43_permutation.md R131). -/
def thetaC (a : Lanes) (x : Nat) : Lane :=
  lane a x 0 ^^^ lane a x 1 ^^^ lane a x 2 ^^^ lane a x 3 ^^^ lane a x 4

/-- D[x] = C[x-1] ^ rotl64(C[x+1], 1), indices mod 5 (43_permutation.md R131). -/
def thetaD (a : Lanes) (x : Nat) : Lane := thetaC a (x + 4) ^^^ rotl64 (thetaC a (x + 1)) 1

/-- Theta (43_permutation.md R131): D[x] into every lane of column x, all from the old lanes. -/
def theta (a : Lanes) : Lanes := Vector.ofFn fun i => a[i] ^^^ thetaD a (i.val % 5)

/-- RhoPi (43_permutation.md R133), in the form that says where each new lane comes from. -/
def rhoPi (a : Lanes) : Lanes := Vector.ofFn fun j => rotl64 a[PISRC[j]] ROT[PISRC[j]]

/-- The moves of the in-place form after the temporary is filled, in the order of 43_permutation.md R134: target position, source
position, rotation. -/
def rhoPiMoves : List (Fin 25 × Fin 25 × Nat) :=
  [(10, 1, 1), (1, 6, 44), (6, 9, 20), (9, 22, 61), (22, 14, 39), (14, 20, 18),
   (20, 2, 62), (2, 12, 43), (12, 13, 25), (13, 19, 8), (19, 23, 56), (23, 15, 41),
   (15, 4, 27), (4, 24, 14), (24, 21, 2), (21, 8, 55), (8, 16, 45), (16, 5, 36),
   (5, 3, 28), (3, 18, 21), (18, 17, 15), (17, 11, 10), (11, 7, 6)]

/-- RhoPi in place with one temporary (43_permutation.md R134). -/
def rhoPiInPlace (a : Lanes) : Lanes :=
  (rhoPiMoves.foldl (fun b m => b.set m.1 (rotl64 b[m.2.1] m.2.2)) a).set 7 (rotl64 a[10] 3)

/-- Chi (43_permutation.md R135): each row from its old lanes. -/
def chi (a : Lanes) : Lanes :=
  Vector.ofFn fun i =>
    a[i] ^^^ (~~~ lane a (i.val % 5 + 1) (i.val / 5) &&& lane a (i.val % 5 + 2) (i.val / 5))

/-- Iota (43_permutation.md R136): lane 0 only. -/
def iota (a : Lanes) (ir : Fin 24) : Lanes := a.set 0 (a[0] ^^^ RC[ir])

/-- One round (43_permutation.md R138). -/
def round (a : Lanes) (ir : Fin 24) : Lanes := iota (chi (rhoPi (theta a))) ir

/-- The rounds in order (43_permutation.md R139): 0, 1, .., 23. -/
def roundOrder : List (Fin 24) := List.finRange 24

/-- KeccakF, the permutation on lanes: exactly 24 rounds (43_permutation.md R139). -/
def keccakF (a : Lanes) : Lanes := roundOrder.foldl round a

/-! ## The units -/

/-- U_THETA; next U_RHOPI (43_permutation.md R131, 45_sequencer.md R161). -/
def unitTheta (e : Engine) : Engine := ({ e with A := theta e.A }).goTo .uRhopi

/-- U_RHOPI; next U_CHI (43_permutation.md R133, 45_sequencer.md R161). -/
def unitRhopi (e : Engine) : Engine := ({ e with A := rhoPi e.A }).goTo .uChi

/-- U_CHI; next U_IOTA (43_permutation.md R135, 45_sequencer.md R161). -/
def unitChi (e : Engine) : Engine := ({ e with A := chi e.A }).goTo .uIota

/-- After U_IOTA: the next round while RND < 23, else U_L2B with RND = 0 (45_sequencer.md R161). -/
def Engine.nextRound (e : Engine) : Engine :=
  if h : e.SEQ.RND.val < 23 then (e.setRnd ⟨e.SEQ.RND.val + 1, by omega⟩).goTo .uTheta
  else (e.setRnd 0).goTo .uL2b

/-- U_IOTA (43_permutation.md R136). -/
def unitIota (e : Engine) : Engine := ({ e with A := iota e.A e.SEQ.RND }).nextRound

/-- U_THETA. -/
def execUTheta (s : State) : Host.Outcome State Fault Refusal := .next (s.onSelf unitTheta)

/-- U_RHOPI. -/
def execURhopi (s : State) : Host.Outcome State Fault Refusal := .next (s.onSelf unitRhopi)

/-- U_CHI. -/
def execUChi (s : State) : Host.Outcome State Fault Refusal := .next (s.onSelf unitChi)

/-- U_IOTA. -/
def execUIota (s : State) : Host.Outcome State Fault Refusal := .next (s.onSelf unitIota)

end Sys2Proof.Machine
end

