-- ==== Sys2Proof/Machine/Transcoder.lean ====
section
/-! DEFINITION. The lane/byte transcoder (44_transcoder.md), the engine's load and store unit, and the permutation on bytes
(43_permutation.md R140). The byte order is little-endian and fixed (20_memory.md R51). -/

namespace Sys2Proof.Machine

/-- `MemRead(k, 8)`: the 8-byte little-endian value at S offset k (00_scope.md R8), each byte zero-extended before its shift
(44_transcoder.md R150). -/
def memRead8 (s : Bytes 200) (k : Nat) (h : k + 8 ≤ 200) : Lane :=
  s[k].setWidth 64 ||| s[k + 1].setWidth 64 <<< 8 ||| s[k + 2].setWidth 64 <<< 16
    ||| s[k + 3].setWidth 64 <<< 24 ||| s[k + 4].setWidth 64 <<< 32 ||| s[k + 5].setWidth 64 <<< 40
    ||| s[k + 6].setWidth 64 <<< 48 ||| s[k + 7].setWidth 64 <<< 56

/-- Byte j of a lane, `v[8*j+7 : 8*j]` (20_memory.md R51). -/
def laneByte (v : Lane) (j : Nat) : Byte := v.extractLsb' (8 * j) 8

/-- B2L (44_transcoder.md R150): lane i is the little-endian value at offset 8*i. -/
def b2l (s : Bytes 200) : Lanes := Vector.ofFn fun i => memRead8 s (8 * i.val) (by omega)

/-- L2B (44_transcoder.md R151): byte 8*i + j is byte j of lane i. -/
def l2b (a : Lanes) : Bytes 200 :=
  Vector.ofFn fun k => laneByte (a[k.val / 8]'(by omega)) (k.val % 8)

/-- KeccakP, the permutation on bytes (43_permutation.md R140). -/
def keccakP (s : Bytes 200) : Bytes 200 := l2b (keccakF (b2l s))

/-- U_B2L; next U_THETA with RND = 0 (44_transcoder.md R150, 45_sequencer.md R161). -/
def unitB2l (e : Engine) : Engine := (({ e with A := b2l e.S }).setRnd 0).goTo .uTheta

/-- After U_L2B, by the latched OPC and PASS (45_sequencer.md R161); for any other OPC a free value (log 10). -/
def Engine.afterAbsorb (e : Engine) : Engine :=
  match e.SEQ.OPC, e.SEQ.PASS with
  | .absorb, _ => e.respond
  | .final, false => e.goTo .uNewblk
  | .final, true => e.goTo .uExtract
  | o, _ => e.goToStray (Config.strayPhase o)

/-- U_L2B (44_transcoder.md R151). -/
def unitL2b (e : Engine) : Engine := ({ e with S := l2b e.A }).afterAbsorb

/-- U_B2L. -/
def execUB2l (s : State) : Host.Outcome State Fault Refusal := .next (s.onSelf unitB2l)

/-- U_L2B. -/
def execUL2b (s : State) : Host.Outcome State Fault Refusal := .next (s.onSelf unitL2b)

end Sys2Proof.Machine
end

