-- ==== Sys2Proof/Machine/Absorb.lean ====
section
/-! DEFINITION. Block absorption (41_absorb.md): ABSORB and U_XORIN. -/

namespace Sys2Proof.Machine

/-- XorIn (41_absorb.md R101): bytes 0..rate-1 XORed with the block, the capacity region kept. -/
def xorIn (v : Variant) (s : Bytes 200) (b : Bytes 144) : Bytes 200 :=
  Vector.ofFn fun k =>
    if h : k.val < v.rate then s[k] ^^^ b[k.val]'(Nat.lt_of_lt_of_le h v.rate_le) else s[k]

/-- AbsorbF (41_absorb.md R102). -/
def absorbF (v : Variant) (s : Bytes 200) (b : Bytes 144) : Bytes 200 := keccakP (xorIn v s b)

/-- U_XORIN; next U_B2L (41_absorb.md R101, 45_sequencer.md R161). -/
def unitXorin (e : Engine) : Engine := ({ e with S := xorIn e.VSEL e.S e.BLK }).goTo .uB2l

/-- ABSORB accepted (41_absorb.md R100, 45_sequencer.md R162): BLK and LEN loaded, the micro-program ABS99 started. -/
def acceptAbsorb (len : Nat) : Engine → Engine :=
  Engine.accept true (absorbCheck len) fun e => (e.loadBlock len).launch .absorb false .uXorin

/-- ABSORB len. -/
def execAbsorb (len : Nat) (s : State) : Host.Outcome State Fault Refusal :=
  .next (s.onSelf (acceptAbsorb len))

/-- U_XORIN. -/
def execUXorin (s : State) : Host.Outcome State Fault Refusal := .next (s.onSelf unitXorin)

end Sys2Proof.Machine
end

