-- ==== Sys2Proof/Machine/PadFinal.lean ====
section
/-! DEFINITION. Padding and finalization (42_pad_final.md): FINAL, U_PAD, U_NEWBLK, U_EXTRACT. -/

namespace Sys2Proof.Machine

/-- Step 1 of U_PAD: zero BLK[L .. r-1] (42_pad_final.md R113). -/
def padZero (r L : Nat) (b : Bytes 144) : Bytes 144 :=
  Vector.ofFn fun k => if L ≤ k.val ∧ k.val < r then 0 else b[k]

/-- `BLK[i] <- BLK[i] | x` (42_pad_final.md R113, steps 2 and 3). -/
def orByte (i : Nat) (x : Byte) (b : Bytes 144) : Bytes 144 :=
  Vector.ofFn fun k => if k.val = i then b[k] ||| x else b[k]

/-- The three steps of U_PAD, in this order (42_pad_final.md R113, R116). -/
def padSteps (v : Variant) (b : Bytes 144) (L : Nat) : Bytes 144 :=
  orByte (v.rate - 1) 0x80 (orByte L v.suffix (padZero v.rate L b))

/-- PadF, byte by byte, as 42_pad_final.md R113 tabulates it for 0 <= L <= rate-1. -/
def padF (v : Variant) (b : Bytes 144) (L : Nat) : Bytes 144 :=
  Vector.ofFn fun k =>
    if k.val < L then b[k]
    else if k.val = L ∧ L < v.rate - 1 then 0x06
    else if L < k.val ∧ k.val < v.rate - 1 then 0x00
    else if k.val = v.rate - 1 ∧ L < v.rate - 1 then 0x80
    else if k.val = v.rate - 1 ∧ L = v.rate - 1 then 0x86
    else b[k]

/-- The digest register after extraction: bytes 0..dlen-1 of S, zero above (42_pad_final.md R115). -/
def extract (v : Variant) (s : Bytes 200) : Bytes 64 :=
  Vector.ofFn fun k => if k.val < v.dlen then s[k.val]'(by omega) else 0

/-- The function of a faultless FINAL (42_pad_final.md R112). -/
def finalF (v : Variant) (s : Bytes 200) (b : Bytes 144) (len : Nat) : Bytes 200 × Bytes 64 :=
  let s1 := if len = v.rate then absorbF v s b else s
  let b1 := if len = v.rate then zeroBytes 144 else b
  let len1 := if len = v.rate then 0 else len
  let s2 := absorbF v s1 (padF v b1 len1)
  (s2, extract v s2)

/-- U_PAD; next U_XORIN (42_pad_final.md R113). With LEN outside 0..rate-1, where R113 gives no result, BLK is a free value
(log 11). -/
def unitPad (e : Engine) : Engine :=
  let blk := if e.LEN.toNat < e.VSEL.rate then padSteps e.VSEL e.BLK e.LEN.toNat
    else Config.padOutOfRange e.VSEL e.LEN e.BLK
  ({ e with BLK := blk }).goTo .uXorin

/-- U_NEWBLK: LEN = 0, PASS = 1; next U_PAD (42_pad_final.md R114). -/
def unitNewblk (e : Engine) : Engine :=
  ({ e with LEN := 0, SEQ := { e.SEQ with PASS := true } }).goTo .uPad

/-- U_EXTRACT; then the response with `rsp_dlen` = dlen (42_pad_final.md R115, 10_state.md R32). -/
def unitExtract (e : Engine) : Engine :=
  ({ e with DOUT := extract e.VSEL e.S }).finish (BitVec.ofNat 7 e.VSEL.dlen) 0 (zeroBytes 200)

/-- The start of FINAL's micro-program: a full block is absorbed first, with PASS = 0 (45_sequencer.md R162). -/
def startFinal (len : Nat) (e : Engine) : Engine :=
  if len = e.VSEL.rate then (e.loadBlock len).launch .final false .uXorin
  else (e.loadBlock len).launch .final true .uPad

/-- FINAL accepted (42_pad_final.md R110, 45_sequencer.md R162), under either value of P_FULLBLOCK_FINAL. -/
def acceptFinal (p : FullBlockFinal) (len : Nat) : Engine → Engine :=
  Engine.accept true (finalCheck p len) (startFinal len)

/-- FINAL len. -/
def execFinal (len : Nat) (s : State) : Host.Outcome State Fault Refusal :=
  .next (s.onSelf (acceptFinal s.fullBlock len))

/-- U_PAD. -/
def execUPad (s : State) : Host.Outcome State Fault Refusal := .next (s.onSelf unitPad)

/-- U_NEWBLK. -/
def execUNewblk (s : State) : Host.Outcome State Fault Refusal := .next (s.onSelf unitNewblk)

/-- U_EXTRACT. -/
def execUExtract (s : State) : Host.Outcome State Fault Refusal := .next (s.onSelf unitExtract)

end Sys2Proof.Machine
end

