-- ==== Sys2Proof/Machine/Sequencer.lean ====
section
/-! DEFINITION. The sequencer (45_sequencer.md): the acceptance of a command word from IDLE (R162), what a step of an instance runs next
(R160), and where that stands so that a word can be put there. -/

namespace Sys2Proof.Machine

/-- The acceptance of the word on the `cmd` port (45_sequencer.md R162). A command word decodes to a command only; the phase rows are
listed so that the match is complete. -/
def acceptWord (p : FullBlockFinal) (e : Engine) : Engine :=
  match decodeCommand e.cmd with
  | .error _ => e.acceptIllegal
  | .ok (.init v) => acceptInit v e
  | .ok .reset => acceptReset e
  | .ok (.absorb len) => acceptAbsorb len e
  | .ok (.final len) => acceptFinal p len e
  | .ok .ctxrd => acceptCtxrd e
  | .ok (.ctxwr v) => acceptCtxwr v e
  | .ok .idle | .ok .uZero | .ok .uXorin | .ok .uB2l | .ok .uTheta | .ok .uRhopi | .ok .uChi
  | .ok .uIota | .ok .uL2b | .ok .uPad | .ok .uExtract | .ok .uNewblk | .ok .uCtxout
  | .ok .uCtxin => e.acceptIllegal

/-- A command is offered and can be accepted: `cmd_valid AND cmd_ready` (10_state.md R31). -/
def Engine.offered (e : Engine) : Bool := e.cmdValid && e.cmdReady

/-- IDLE: accept the offered command, else wait, with everything kept and no response (45_sequencer.md R162, 60_exceptions.md R202). -/
def unitIdle (p : FullBlockFinal) (e : Engine) : Engine :=
  if e.offered then acceptWord p e else { e with rsp := none }

/-- IDLE. -/
def execIdle (s : State) : Host.Outcome State Fault Refusal := .next (s.onSelf (unitIdle s.fullBlock))

/-- What the next step of an instance does. -/
inductive Fetched where
  /-- `rst` is asserted: hard reset, whatever the engine is doing (70_reset_and_hazards.md R210). -/
  | hardReset
  /-- An illegal word is accepted (30_encoding.md R75). -/
  | illegal
  /-- An instruction runs: the unit PHASE names, the command accepted, or IDLE. -/
  | run (i : Instr)
  deriving DecidableEq, Repr

/-- From IDLE: the command offered, if one can be accepted (45_sequencer.md R162). -/
def Engine.fetchIdle (e : Engine) : Fetched :=
  if e.offered then
    match decodeCommand e.cmd with
    | .ok i => .run i
    | .error _ => .illegal
  else .run .idle

/-- PHASE names the unit that fires; from IDLE a command is accepted (45_sequencer.md R160, R162). -/
def Engine.fetch (e : Engine) : Fetched :=
  if e.rst then .hardReset
  else
    match e.SEQ.PHASE with
    | .idle => e.fetchIdle
    | p => .run p.instr

/-- What surrounds an instruction in a step: the host moves on this instance's ports, and the turn passes. -/
def State.after (s : State) : State := (s.onSelf Engine.hostMoves).passTurn

/-- Put a command word where the next step of an instance accepts it: offered on the port of an idle engine. -/
def Engine.placeCommand (w : CmdWord) (e : Engine) : Engine :=
  { e with rst := false, cmdValid := true, cmd := w, BUSY := false, SEQ := { e.SEQ with PHASE := .idle } }

/-- Put a phase where the next step of an instance fires it; for IDLE to run nothing may be offered. -/
def Engine.placePhase (p : Phase) (e : Engine) : Engine :=
  match p with
  | .idle => { e with rst := false, cmdValid := false, SEQ := { e.SEQ with PHASE := .idle } }
  | p => { e with rst := false, SEQ := { e.SEQ with PHASE := p } }

/-- Put a code where the next step runs it; a reserved phase code is not placed. -/
def Engine.placeCode (c : Code) (e : Engine) : Engine :=
  match c with
  | .cmd w => e.placeCommand w
  | .phase c =>
    match decodePhase c with
    | .ok p => e.placePhase p
    | .error _ => e

end Sys2Proof.Machine
end

