-- ==== Sys2Proof/Machine/Dispatch.lean ====
section
/-! DEFINITION. Every instruction's meaning, one arm per row of spec/opcode_table.json. -/

namespace Sys2Proof.Machine

def exec (i : Instr) (s : State) : Host.Outcome State Fault Refusal :=
  match i with
  -- the host commands (30_encoding.md R71)
  | .init v => Sys2Proof.Machine.execInit v s
  | .reset => Sys2Proof.Machine.execReset s
  | .absorb len => Sys2Proof.Machine.execAbsorb len s
  | .final len => Sys2Proof.Machine.execFinal len s
  | .ctxrd => Sys2Proof.Machine.execCtxrd s
  | .ctxwr v => Sys2Proof.Machine.execCtxwr v s
  -- the phases (30_encoding.md R76)
  | .idle => Sys2Proof.Machine.execIdle s
  | .uZero => Sys2Proof.Machine.execUZero s
  | .uXorin => Sys2Proof.Machine.execUXorin s
  | .uB2l => Sys2Proof.Machine.execUB2l s
  | .uTheta => Sys2Proof.Machine.execUTheta s
  | .uRhopi => Sys2Proof.Machine.execURhopi s
  | .uChi => Sys2Proof.Machine.execUChi s
  | .uIota => Sys2Proof.Machine.execUIota s
  | .uL2b => Sys2Proof.Machine.execUL2b s
  | .uPad => Sys2Proof.Machine.execUPad s
  | .uExtract => Sys2Proof.Machine.execUExtract s
  | .uNewblk => Sys2Proof.Machine.execUNewblk s
  | .uCtxout => Sys2Proof.Machine.execUCtxout s
  | .uCtxin => Sys2Proof.Machine.execUCtxin s

end Sys2Proof.Machine
end

