-- ==== Sys2Proof/Machine/Step.lean ====
section
/-! DEFINITION. One step of the system: the instance whose turn it is acts on `rst`, accepts a command, waits, or fires the unit PHASE
names (45_sequencer.md R160, R162); then the host moves on its ports and the turn passes. -/

namespace Sys2Proof.Machine

def step (s : State) : Host.Outcome State Fault Refusal :=
  match s.self.fetch with
  | .hardReset => .next (s.onSelf Engine.hardReset).after
  | .illegal => .next (s.onSelf Engine.acceptIllegal).after
  | .run i =>
    match exec i s with
    | .next t => .next t.after
    | .fault r => .fault r
    | .refused r => .refused r

/-- The state with that instruction where the next step fetches it: a command word offered on the port of the idle instance whose turn
it is, a phase code in its SEQ.PHASE (log 19). -/
def State.withFetchWord (s : State) (nbits w : Nat) : State :=
  match tableCode nbits w with
  | some c => s.onSelf (Engine.placeCode c)
  | none => s

end Sys2Proof.Machine
end

