-- ==== Sys2Proof/Machine/Pseudo.lean ====
section
/-! DEFINITION. The host's pseudo-instructions (30_encoding.md R79): abbreviations for real commands, as what the host presents on the
ports. None has an encoding of its own. -/

namespace Sys2Proof.Machine

/-- The word of an instruction that is a command; 0 for a phase, which has none. -/
def wordOf (i : Instr) : CmdWord :=
  match encode i with
  | .cmd w => w
  | .phase _ => 0

/-- A command without a data operand: what stands on the data ports is ignored (30_encoding.md R74, 93_implementation_defined.md U8). -/
def offer (i : Instr) : HostEvent := .command (wordOf i) (zeroBytes 144) (zeroBytes 200)

/-- A command with a block on `blk_in`. -/
def offerBlock (i : Instr) (b : Bytes 144) : HostEvent := .command (wordOf i) b (zeroBytes 200)

/-- A command with a context on `ctx_in`. -/
def offerContext (i : Instr) (c : Bytes 200) : HostEvent := .command (wordOf i) (zeroBytes 144) c

/-- PERMUTE: `ABSORB rate ; 00*rate` on an instance bound to v (30_encoding.md R79, 41_absorb.md R104). -/
def permute (v : Variant) : HostEvent := offerBlock (.absorb v.rate) (zeroBytes 144)

/-- The first half of CLONE: the source's context is read (40_variant_lifecycle.md R97). -/
def cloneRead : HostEvent := offer .ctxrd

/-- The second half of CLONE: the (v, s) a CTXRD gave, written into the other instance (40_variant_lifecycle.md R97). -/
def cloneWrite (r : Response) : HostEvent := offerContext (.ctxwr (Variant.ofCode r.ctxVsel)) r.ctxOut

/-- The block whose bytes are the message's from offset k on; bytes past the end are not message bytes and are 0 here. -/
def blockAt (m : List Byte) (k : Nat) : Bytes 144 := Vector.ofFn fun j => m.getD (k + j.val) 0

/-- HASH v ; m: INIT, an ABSORB for each whole block while at least rate bytes remain, FINAL of the rest (30_encoding.md R79,
42_pad_final.md R119). -/
def hash (v : Variant) (m : List Byte) : List HostEvent :=
  offer (.init v)
    :: ((List.range (m.length / v.rate)).map fun j => offerBlock (.absorb v.rate) (blockAt m (j * v.rate)))
    ++ [offerBlock (.final (m.length % v.rate)) (blockAt m (m.length / v.rate * v.rate))]

/-- The system with NINST = n + 1 instances, all right after hard reset (60_exceptions.md R200), the first one's turn. -/
def State.powerOn (n : Nat) (p : FullBlockFinal) : State :=
  { State.reset with upper := List.replicate n Engine.reset, fullBlock := p }

/-- The state with what the host is going to do on the ports of the instance whose turn it is (log 7). -/
def State.withHost (h : List HostEvent) (s : State) : State := s.onSelf fun e => { e with host := h }

/-! ## The spec's written form of a command (30_encoding.md R78) -/

def hexDigit (n : Nat) : Char := ['0', '1', '2', '3', '4', '5', '6', '7', '8', '9', 'A', 'B', 'C', 'D', 'E', 'F'].getD n '0'

/-- Bytes in index order, two digits each. -/
def hexBytes (bs : List Byte) : String :=
  String.ofList (bs.flatMap fun b => [hexDigit (b.toNat / 16), hexDigit (b.toNat % 16)])

/-- The name of a variant (00_scope.md R5). -/
def variantName : Variant → String
  | .sha3_224 => "SHA3_224"
  | .sha3_256 => "SHA3_256"
  | .sha3_384 => "SHA3_384"
  | .sha3_512 => "SHA3_512"

/-- The operand part of a command's line, with its data operand after ` ; `; a phase has no line of its own. -/
def operandText (blk : Bytes 144) (ctx : Bytes 200) : Instr → String
  | .init v => " " ++ variantName v
  | .absorb len => " " ++ toString len ++ " ; " ++ hexBytes blk.toList
  | .final len => " " ++ toString len ++ " ; " ++ hexBytes (blk.toList.take len)
  | .ctxwr v => " " ++ variantName v ++ " ; " ++ hexBytes ctx.toList
  | .reset | .ctxrd | .idle | .uZero | .uXorin | .uB2l | .uTheta | .uRhopi | .uChi | .uIota | .uL2b | .uPad
  | .uExtract | .uNewblk | .uCtxout | .uCtxin => ""

/-- The line of a command, `MNEMONIC [operand] [; data]`. -/
def commandLine (blk : Bytes 144) (ctx : Bytes 200) (i : Instr) : String := i.mnemonic ++ operandText blk ctx i

/-- A line that names its instance. -/
def instanceLine (k : Nat) (line : String) : String := "i" ++ toString k ++ ": " ++ line

end Sys2Proof.Machine
end

