-- ==== Sys2Proof/Safety.lean ====
section
/-! DEFINITION. What holds in every state a run reaches (the invariant), how far a running command is from its response, when no hard
reset is coming, and when two instances cannot be told apart: the terms the claims are stated in. -/

namespace Sys2Proof.Machine

/-! ## Reachable values of SEQ (45_sequencer.md R161, R171) -/

/-- The phases of a round. -/
def inRound : Phase → Bool
  | .uTheta => true
  | .uRhopi => true
  | .uChi => true
  | .uIota => true
  | .idle => false
  | .uZero => false
  | .uXorin => false
  | .uB2l => false
  | .uL2b => false
  | .uPad => false
  | .uExtract => false
  | .uNewblk => false
  | .uCtxout => false
  | .uCtxin => false

/-- OPC and PASS belong to a command whose micro-program contains the phase (45_sequencer.md R163 to R167). -/
def Seq.fits (q : Seq) : Bool :=
  match q.PHASE with
  | .idle => q.OPC == .none && !q.PASS
  | .uZero => (q.OPC == .init || q.OPC == .reset) && !q.PASS
  | .uCtxout => q.OPC == .ctxrd && !q.PASS
  | .uCtxin => q.OPC == .ctxwr && !q.PASS
  | .uXorin => (q.OPC == .absorb && !q.PASS) || q.OPC == .final
  | .uB2l => (q.OPC == .absorb && !q.PASS) || q.OPC == .final
  | .uTheta => (q.OPC == .absorb && !q.PASS) || q.OPC == .final
  | .uRhopi => (q.OPC == .absorb && !q.PASS) || q.OPC == .final
  | .uChi => (q.OPC == .absorb && !q.PASS) || q.OPC == .final
  | .uIota => (q.OPC == .absorb && !q.PASS) || q.OPC == .final
  | .uL2b => (q.OPC == .absorb && !q.PASS) || q.OPC == .final
  | .uPad => q.OPC == .final && q.PASS
  | .uExtract => q.OPC == .final && q.PASS
  | .uNewblk => q.OPC == .final && !q.PASS

/-- The invariant of an instance. -/
structure Engine.Inv (p : FullBlockFinal) (e : Engine) : Prop where
  /-- BUSY exactly while a command runs (10_state.md R27). -/
  busy : e.BUSY = true ↔ e.SEQ.PHASE ≠ .idle
  /-- At a command boundary SEQ is at rest (10_state.md R30). -/
  rest : e.SEQ.PHASE = .idle → e.SEQ = Seq.rest
  /-- RND is 0 outside the round loop (45_sequencer.md R171). -/
  rnd : inRound e.SEQ.PHASE = false → e.SEQ.RND = 0
  /-- OPC and PASS fit the phase (45_sequencer.md R163 to R167). -/
  fits : e.SEQ.fits = true
  /-- CAUSE is 0 exactly when FAULT = 0 (10_state.md R27). -/
  cause : e.FAULT = true ↔ e.CAUSE ≠ .none
  /-- A dead engine runs nothing and shows no digest (60_exceptions.md R184, R189). -/
  dead : e.FAULT = true → e.SEQ.PHASE = .idle ∧ e.DOUT = zeroBytes 64
  /-- Only a bound instance runs a command (45_sequencer.md R162). -/
  bound : e.SEQ.PHASE ≠ .idle → e.BOUND = true
  /-- An ABSORB runs with LEN = rate (41_absorb.md R105). -/
  absorbLen : e.SEQ.OPC = .absorb → e.LEN.toNat = e.VSEL.rate
  /-- PASS = 0 in a FINAL only with a full block, under extra_block (45_sequencer.md R167, R171). -/
  fullPass : e.SEQ.OPC = .final → e.SEQ.PASS = false → e.LEN.toNat = e.VSEL.rate ∧ p = .extraBlock
  /-- U_PAD fires with LEN in 0..rate-1 (42_pad_final.md R111, R113). -/
  padLen : e.SEQ.PHASE = .uPad → e.LEN.toNat < e.VSEL.rate
  /-- DOUT is zero beyond the digest, but while U_ZERO or U_CTXIN is about to clear it (10_state.md R25). -/
  dout : e.SEQ.PHASE ≠ .uZero → e.SEQ.PHASE ≠ .uCtxin → ∀ k (h : k < 64), e.VSEL.dlen ≤ k → e.DOUT[k] = 0
  /-- A response stands only at a command boundary, shows STATUS and DOUT, and is never 0x00 (10_state.md R32, 30_encoding.md R77). -/
  response : ∀ r, e.rsp = some r →
    e.SEQ.PHASE = .idle ∧ r.status = e.status ∧ r.dout = e.DOUT ∧ (e.BOUND = true ∨ e.FAULT = true)

/-- The invariant of the system: every instance's. -/
def State.Inv (s : State) : Prop := ∀ e ∈ s.instances, e.Inv s.fullBlock

/-! ## How far a command is from its response (45_sequencer.md R163 to R167) -/

/-- Micro-steps left after the U_L2B of the absorb that is running. -/
def Seq.stepsAfterAbsorb (q : Seq) : Nat :=
  match q.OPC, q.PASS with
  | .final, false => 102
  | .final, true => 1
  | _, _ => 0

/-- Micro-steps left until the running command responds; 0 at a command boundary. -/
def Seq.stepsLeft (q : Seq) : Nat :=
  match q.PHASE with
  | .idle => 0
  | .uZero => 1
  | .uCtxout => 1
  | .uCtxin => 1
  | .uExtract => 1
  | .uXorin => 99 + q.stepsAfterAbsorb
  | .uB2l => 98 + q.stepsAfterAbsorb
  | .uTheta => 4 * (24 - q.RND.val) + 1 + q.stepsAfterAbsorb
  | .uRhopi => 4 * (24 - q.RND.val) + q.stepsAfterAbsorb
  | .uChi => 4 * (24 - q.RND.val) - 1 + q.stepsAfterAbsorb
  | .uIota => 4 * (24 - q.RND.val) - 2 + q.stepsAfterAbsorb
  | .uL2b => 1 + q.stepsAfterAbsorb
  | .uPad => 101
  | .uNewblk => 102

/-! ## What surrounds a run -/

/-- No hard reset is asserted or coming (70_reset_and_hazards.md R210). -/
def Engine.Undisturbed (e : Engine) : Prop := e.rst = false ∧ HostEvent.rst ∉ e.host

/-- The same instance takes every step, and no hard reset comes: what it takes to follow one command to its response. -/
def State.Undisturbed (s : State) : Prop := s.turns = [] ∧ s.self.Undisturbed

/-- An engine a command that needs a bound instance runs on: not dead, bound (60_exceptions.md R187). -/
def Engine.Ready (e : Engine) : Prop := e.FAULT = false ∧ e.BOUND = true

/-- A response that reports success (30_encoding.md R77). -/
def okResponse (dlen : Nat) (dout : Bytes 64) (vsel : BitVec 2) (ctx : Bytes 200) : Response :=
  ⟨0x01, BitVec.ofNat 7 dlen, dout, vsel, ctx⟩

/-- The dead response and every faulting response (60_exceptions.md R184, R189): STATUS and nothing else. -/
def faultResponse (c : Cause) (bound : Bool) : Response :=
  ⟨c.code ++ 0x2#3 ++ BitVec.ofBool bound, 0, zeroBytes 64, 0, zeroBytes 200⟩

/-! ## What no host can see (10_state.md R30, R34) -/

/-- S holds the state of the message: not while A does (44_transcoder.md R154), nor just before it is overwritten. -/
def sLive : Phase → Bool
  | .idle => true
  | .uXorin => true
  | .uB2l => true
  | .uPad => true
  | .uExtract => true
  | .uNewblk => true
  | .uCtxout => true
  | .uZero => false
  | .uCtxin => false
  | .uTheta => false
  | .uRhopi => false
  | .uChi => false
  | .uIota => false
  | .uL2b => false

/-- A holds the state of the message: from U_B2L to U_L2B (10_state.md R21, 44_transcoder.md R154). -/
def aLive : Phase → Bool
  | .uTheta => true
  | .uRhopi => true
  | .uChi => true
  | .uIota => true
  | .uL2b => true
  | .idle => false
  | .uZero => false
  | .uXorin => false
  | .uB2l => false
  | .uPad => false
  | .uExtract => false
  | .uNewblk => false
  | .uCtxout => false
  | .uCtxin => false

/-- Two instances that agree on all but what has no meaning at this point: VSEL and S of an unbound instance, the transient registers
outside their window. -/
structure Engine.LooksLike (e f : Engine) : Prop where
  bound : e.BOUND = f.BOUND
  busy : e.BUSY = f.BUSY
  fault : e.FAULT = f.FAULT
  cause : e.CAUSE = f.CAUSE
  dout : e.DOUT = f.DOUT
  seq : e.SEQ = f.SEQ
  ports : e.rst = f.rst ∧ e.cmdValid = f.cmdValid ∧ e.cmd = f.cmd ∧ e.blkIn = f.blkIn ∧ e.ctxIn = f.ctxIn
  rsp : e.rsp = f.rsp
  host : e.host = f.host
  vsel : e.BOUND = true → e.VSEL = f.VSEL
  sponge : e.BOUND = true → sLive e.SEQ.PHASE = true → e.S = f.S
  lanes : aLive e.SEQ.PHASE = true → e.A = f.A
  block : e.SEQ.PHASE = .uXorin → ∀ k (h : k < 144), k < e.VSEL.rate → e.BLK[k] = f.BLK[k]
  pad : e.SEQ.PHASE = .uPad → e.LEN = f.LEN ∧ ∀ k (h : k < 144), k < e.LEN.toNat → e.BLK[k] = f.BLK[k]
  context : e.SEQ.PHASE = .uCtxin → e.CTX = f.CTX

end Sys2Proof.Machine
end

