-- ==== Sys2Proof/Certificates/Slice0/Obligations.lean ====
section
/-! DEFINITION. The statements for the provers. Each docstring names the rules of spec/ it formalises. -/

open Sys2Proof Sys2Proof.Machine

/-! ## Encodings (30_encoding.md) -/

/-- Decoding the code of any well-formed instruction gives it back, every operand at every value (30_encoding.md R71, R76). -/
def Obligations.DecodeEncodeRoundTrip : Prop :=
  ∀ i : Instr, WellFormed i = true → decode (encode i) = .ok i

/-- Every code that decodes is the code of the well-formed instruction it decodes to: each word has one meaning (30_encoding.md
R71, R76). -/
def Obligations.EncodeDecodeRoundTrip : Prop :=
  ∀ (c : Code) (i : Instr), decode c = .ok i → WellFormed i = true ∧ encode i = c

/-- The decoder is the table's: a word that matches a row is that row's command, no word matches two rows, and a word that matches
none is illegal (30_encoding.md R71, R75, R80). -/
def Obligations.CommandTableDecides : Prop :=
  ∀ w : CmdWord,
    (∀ r ∈ cmdRows, r.matchesWord w = true → ∃ i, decodeCommand w = .ok i ∧ i.mnemonic = r.mnemonic) ∧
    (∀ r ∈ cmdRows, ∀ r' ∈ cmdRows, r.matchesWord w = true → r'.matchesWord w = true → r = r') ∧
    ((∀ r ∈ cmdRows, r.matchesWord w = false) → ∃ b, decodeCommand w = .error b)

/-- The illegal words are exactly those 30_encoding.md R75 lists. -/
def Obligations.IllegalWordsListed : Prop :=
  ∀ w : CmdWord, (∃ b, decodeCommand w = .error b) ↔
    (opcField w = 0x0 ∨ 0x7 ≤ opcField w) ∨
    rsvField w ≠ 0 ∨
    (vselField w ≠ 0 ∧ (opcField w = 0x2 ∨ opcField w = 0x3 ∨ opcField w = 0x4 ∨ opcField w = 0x5)) ∨
    (lenField w ≠ 0 ∧ (opcField w = 0x1 ∨ opcField w = 0x2 ∨ opcField w = 0x5 ∨ opcField w = 0x6))

/-- Words and phase codes written out from the tables decode to the instructions they stand for (30_encoding.md R71, R76). -/
def Obligations.SampleCodesDecode : Prop :=
  decode (.cmd 0x1400) = .ok (.init .sha3_256) ∧ decode (.cmd 0x2000) = .ok .reset ∧
  decode (.cmd 0x3048) = .ok (.absorb 72) ∧ decode (.cmd 0x4089) = .ok (.final 137) ∧
  decode (.cmd 0x5000) = .ok .ctxrd ∧ decode (.cmd 0x6C00) = .ok (.ctxwr .sha3_512) ∧
  decode (.phase 0x0) = .ok .idle ∧ decode (.phase 0x4) = .ok .uTheta ∧ decode (.phase 0x8) = .ok .uL2b ∧
  decode (.phase 0xD) = .ok .uCtxin ∧ decode (.phase 0xE) = .error .reservedPhase ∧
  decode (.phase 0xF) = .error .reservedPhase

/-! ## The step (45_sequencer.md R160, R162) -/

/-- A step runs the decoded instruction: the unit PHASE names, the command offered to an idle engine, else IDLE; then the host moves on
the instance's ports and the turn passes (45_sequencer.md R160, R162; log 6, log 7). -/
def Obligations.StepRunsInstruction : Prop :=
  ∀ (s : State) (i : Instr), s.self.rst = false →
    (s.self.SEQ.PHASE ≠ .idle ∧ i = s.self.SEQ.PHASE.instr) ∨
    (s.self.SEQ.PHASE = .idle ∧ s.self.cmdValid = true ∧ s.self.BUSY = false ∧ decodeCommand s.self.cmd = .ok i) ∨
    (s.self.SEQ.PHASE = .idle ∧ (s.self.cmdValid = false ∨ s.self.BUSY = true) ∧ i = .idle) →
    ∀ t : State, exec i s = .next t → step s = .next (t.onSelf Engine.hostMoves).passTurn

/-- `withFetchWord` puts an instruction where the next step runs it (the model's own; log 19). -/
def Obligations.FetchWordRuns : Prop :=
  ∀ (s : State) (nbits w : Nat) (i : Instr), decodeTableWord nbits w = some i →
    ∀ t : State, exec i (s.withFetchWord nbits w) = .next t → step (s.withFetchWord nbits w) = .next t.after

/-- What the host does on the ports at the end of a step: nothing while a command or `rst` stands there, else the next thing it has to
do; no register of the engine is touched (10_state.md R31, 70_reset_and_hazards.md R220; the model's own list, log 7). -/
def Obligations.HostMovesOnPortsOnly : Prop :=
  ∀ e : Engine,
    e.hostMoves = { e with rst := e.hostMoves.rst, cmdValid := e.hostMoves.cmdValid, cmd := e.hostMoves.cmd,
                           blkIn := e.hostMoves.blkIn, ctxIn := e.hostMoves.ctxIn, host := e.hostMoves.host } ∧
    (e.cmdValid = true ∨ e.rst = true → e.hostMoves = e) ∧
    (e.cmdValid = false → e.rst = false →
      (e.host = [] → e.hostMoves = e) ∧
      (∀ h, e.host = .quiet :: h → e.hostMoves = { e with host := h }) ∧
      (∀ h, e.host = .rst :: h → e.hostMoves = { e with rst := true, host := h }) ∧
      (∀ w b c h, e.host = .command w b c :: h →
        e.hostMoves = { e with cmdValid := true, cmd := w, blkIn := b, ctxIn := c, host := h }))

/-- IDLE with nothing to accept waits: everything is kept and no response stands (45_sequencer.md R162, 60_exceptions.md R202). With a
legal command offered it is that command's acceptance (R162). -/
def Obligations.IdleWaitsOrAccepts : Prop :=
  ∀ s : State,
    ((s.self.cmdValid = false ∨ s.self.BUSY = true) →
      exec .idle s = .next (s.onSelf fun e => { e with rsp := none })) ∧
    (s.self.cmdValid = true → s.self.BUSY = false → ∀ i, decodeCommand s.self.cmd = .ok i →
      ∃ t, exec i s = .next t ∧ exec .idle s = .next t)

/-- Hard reset, whatever the engine is doing (70_reset_and_hazards.md R210, 10_state.md R34): the values the spec gives; no response; the
other ports, and what the host is going to do, stay as they are (the model's choice, log 9). VSEL, S and the transients, which the spec
leaves unspecified, are not spoken of. -/
def Obligations.HardResetClears : Prop :=
  ∀ s : State, s.self.rst = true →
    ∃ t : State, step s = .next t.after ∧ t.lower = s.lower ∧ t.upper = s.upper ∧
      t.self.BOUND = false ∧ t.self.BUSY = false ∧ t.self.FAULT = false ∧ t.self.CAUSE = .none ∧
      t.self.DOUT = zeroBytes 64 ∧ t.self.SEQ = Seq.rest ∧ t.self.status = 0x00 ∧ t.self.rsp = none ∧
      t.self.rst = false ∧ t.self.cmdValid = s.self.cmdValid ∧ t.self.cmd = s.self.cmd ∧
      t.self.blkIn = s.self.blkIn ∧ t.self.ctxIn = s.self.ctxIn ∧ t.self.host = s.self.host

/-- The machine right after reset has the values of the spec's table (10_state.md R34) and its default parameters (00_scope.md R6);
what the spec leaves unspecified is not spoken of. -/
def Obligations.ResetValues : Prop :=
  State.reset.self.BOUND = false ∧ State.reset.self.BUSY = false ∧ State.reset.self.FAULT = false ∧
  State.reset.self.CAUSE = .none ∧ State.reset.self.DOUT = zeroBytes 64 ∧ State.reset.self.SEQ.word = 0 ∧
  State.reset.self.status = 0x00 ∧ State.reset.self.rsp = none ∧
  State.reset.instances.length = 1 ∧ State.reset.fullBlock = .extraBlock

/-- The four quantities of a variant (00_scope.md R5, 10_state.md R23). -/
def Obligations.VariantTable : Prop :=
  ∀ v : Variant,
    (v.rate, v.cap, v.dlen, v.suffix) =
      (match v with
        | .sha3_224 => (144, 56, 28, 0x06)
        | .sha3_256 => (136, 64, 32, 0x06)
        | .sha3_384 => (104, 96, 48, 0x06)
        | .sha3_512 => (72, 128, 64, 0x06)) ∧
    v.rate + v.cap = 200 ∧ v.dlen ≤ v.rate ∧ v.rate % 8 = 0 ∧ Variant.ofCode v.code = v

/-! ## Acceptance of a command (45_sequencer.md R162, 60_exceptions.md R187) -/

/-- The four lifecycle commands on an engine that is not dead. INIT v and CTXWR v, bound or not: VSEL and BOUND are written at
acceptance, CTXWR holds `ctx_in`. RESET and CTXRD, bound: VSEL and S are kept. The one unit of the micro-program is next; nothing else
changes (40_variant_lifecycle.md R90 to R93; 45_sequencer.md R162). -/
def Obligations.LifecycleCommandsStart : Prop :=
  ∀ (s : State) (v : Variant), s.self.FAULT = false →
    exec (.init v) s = .next (s.onSelf fun e =>
      { e with VSEL := v, BOUND := true, BUSY := true, cmdValid := false, rsp := none,
               SEQ := { OPC := .init, PASS := false, RND := 0, PHASE := .uZero } }) ∧
    exec (.ctxwr v) s = .next (s.onSelf fun e =>
      { e with VSEL := v, BOUND := true, CTX := e.ctxIn, BUSY := true, cmdValid := false, rsp := none,
               SEQ := { OPC := .ctxwr, PASS := false, RND := 0, PHASE := .uCtxin } }) ∧
    (s.self.BOUND = true →
      exec .reset s = .next (s.onSelf fun e =>
        { e with BUSY := true, cmdValid := false, rsp := none,
                 SEQ := { OPC := .reset, PASS := false, RND := 0, PHASE := .uZero } }) ∧
      exec .ctxrd s = .next (s.onSelf fun e =>
        { e with BUSY := true, cmdValid := false, rsp := none,
                 SEQ := { OPC := .ctxrd, PASS := false, RND := 0, PHASE := .uCtxout } }))

/-- ABSORB with `len = rate` on a ready engine loads BLK and LEN and starts with U_XORIN; nothing else changes (41_absorb.md R100,
45_sequencer.md R162). -/
def Obligations.AbsorbStarts : Prop :=
  ∀ (s : State) (len : Nat), s.self.Ready → len = s.self.VSEL.rate →
    exec (.absorb len) s = .next (s.onSelf fun e =>
      { e with BLK := e.blkIn, LEN := BitVec.ofNat 8 len, BUSY := true, cmdValid := false, rsp := none,
               SEQ := { OPC := .absorb, PASS := false, RND := 0, PHASE := .uXorin } })

/-- FINAL on a ready engine: with `len < rate` it starts with U_PAD and PASS = 1; with `len = rate`, under extra_block, with U_XORIN and
PASS = 0 (42_pad_final.md R110, R111; 45_sequencer.md R162). -/
def Obligations.FinalStarts : Prop :=
  ∀ (s : State) (len : Nat), s.self.Ready →
    (len < s.self.VSEL.rate →
      exec (.final len) s = .next (s.onSelf fun e =>
        { e with BLK := e.blkIn, LEN := BitVec.ofNat 8 len, BUSY := true, cmdValid := false, rsp := none,
                 SEQ := { OPC := .final, PASS := true, RND := 0, PHASE := .uPad } })) ∧
    (len = s.self.VSEL.rate → s.fullBlock = .extraBlock →
      exec (.final len) s = .next (s.onSelf fun e =>
        { e with BLK := e.blkIn, LEN := BitVec.ofNat 8 len, BUSY := true, cmdValid := false, rsp := none,
                 SEQ := { OPC := .final, PASS := false, RND := 0, PHASE := .uXorin } }))

/-! ## Faults (60_exceptions.md) -/

/-- RESET, ABSORB, FINAL and CTXRD on an unbound engine take E_UNBOUND, whatever their `len` (60_exceptions.md R182, R184): FAULT,
CAUSE, DOUT zeroed, SEQ at rest, BUSY 0, the response; S, VSEL and all else kept. -/
def Obligations.UnboundCommandsFault : Prop :=
  ∀ (s : State) (i : Instr), s.self.FAULT = false → s.self.BOUND = false →
    (i = .reset ∨ i = .ctxrd ∨ (∃ len, i = .absorb len) ∨ ∃ len, i = .final len) →
    exec i s = .next (s.onSelf fun e =>
      { e with FAULT := true, CAUSE := .unbound, DOUT := zeroBytes 64, SEQ := Seq.rest, BUSY := false,
               cmdValid := false, rsp := some (faultResponse .unbound false) })

/-- ABSORB with a `len` other than the rate takes E_BLOCK_LEN (60_exceptions.md R183, R184). -/
def Obligations.WrongBlockLengthFaults : Prop :=
  ∀ (s : State) (len : Nat), s.self.Ready → len ≠ s.self.VSEL.rate →
    exec (.absorb len) s = .next (s.onSelf fun e =>
      { e with FAULT := true, CAUSE := .blockLen, DOUT := zeroBytes 64, SEQ := Seq.rest, BUSY := false,
               cmdValid := false, rsp := some (faultResponse .blockLen true) })

/-- FINAL with a `len` above the rate takes E_VALID_LEN, under either setting of P_FULLBLOCK_FINAL (60_exceptions.md R185, R184). -/
def Obligations.WrongValidLengthFaults : Prop :=
  ∀ (s : State) (len : Nat), s.self.Ready → s.self.VSEL.rate < len →
    exec (.final len) s = .next (s.onSelf fun e =>
      { e with FAULT := true, CAUSE := .validLen, DOUT := zeroBytes 64, SEQ := Seq.rest, BUSY := false,
               cmdValid := false, rsp := some (faultResponse .validLen true) })

/-- E_PAD_INTERNAL: under `fatal` a FINAL with `len <= rate` takes it exactly when `len = rate`; under `extra_block` no FINAL sets that
cause (60_exceptions.md R186, R184; 42_pad_final.md R111). -/
def Obligations.PadInternalFaults : Prop :=
  ∀ (s : State) (len : Nat), s.self.Ready → len ≤ s.self.VSEL.rate →
    (s.fullBlock = .fatal → len = s.self.VSEL.rate →
      exec (.final len) s = .next (s.onSelf fun e =>
        { e with FAULT := true, CAUSE := .padInternal, DOUT := zeroBytes 64, SEQ := Seq.rest, BUSY := false,
                 cmdValid := false, rsp := some (faultResponse .padInternal true) })) ∧
    (s.fullBlock = .extraBlock ∨ len ≠ s.self.VSEL.rate →
      ∃ t, exec (.final len) s = .next t ∧ t.self.FAULT = false ∧ t.self.CAUSE = s.self.CAUSE)

/-- An illegal word accepted by an engine that is not dead takes E_ILLEGAL_CMD, bound or not (60_exceptions.md R181, R184; 30_encoding.md
R75). -/
def Obligations.IllegalWordFaults : Prop :=
  ∀ (s : State) (b : BadCode), s.self.rst = false → s.self.SEQ.PHASE = .idle → s.self.BUSY = false →
    s.self.cmdValid = true → s.self.FAULT = false → decodeCommand s.self.cmd = .error b →
    step s = .next (s.onSelf fun e =>
      { e with FAULT := true, CAUSE := .illegalCmd, DOUT := zeroBytes 64, SEQ := Seq.rest, BUSY := false,
               cmdValid := false, rsp := some (faultResponse .illegalCmd e.BOUND) }).after

/-- A dead engine: each of the six commands answers the dead response with the first CAUSE and writes no register but SEQ and BUSY,
which stand at rest; and at a command boundary any word, legal or not, does the same (60_exceptions.md R189). -/
def Obligations.DeadEngineAnswers : Prop :=
  ∀ s : State, s.self.FAULT = true →
    (∀ i : Instr, ((∃ v, i = .init v) ∨ i = .reset ∨ (∃ n, i = .absorb n) ∨ (∃ n, i = .final n) ∨ i = .ctxrd ∨
        ∃ v, i = .ctxwr v) →
      exec i s = .next (s.onSelf fun e =>
        { e with SEQ := Seq.rest, BUSY := false, cmdValid := false, rsp := some (faultResponse e.CAUSE e.BOUND) })) ∧
    (s.self.rst = false → s.self.SEQ = Seq.rest → s.self.BUSY = false → s.self.cmdValid = true →
      step s = .next (s.onSelf fun e =>
        { e with cmdValid := false, rsp := some (faultResponse e.CAUSE e.BOUND) }).after)

/-- The order of the checks: the first condition that holds decides the outcome (60_exceptions.md R187). -/
def Obligations.ChecksInOrder : Prop :=
  ∀ s : State, s.self.rst = false → s.self.SEQ.PHASE = .idle → s.self.BUSY = false → s.self.cmdValid = true →
    ∃ t : State, step s = .next t.after ∧
      (let e := s.self
       let w := e.cmd
       let n : Int := if (lenField w).toNat = e.VSEL.rate ∧ s.fullBlock = .extraBlock then e.VSEL.rate
         else (e.VSEL.rate : Int) - (lenField w).toNat
       let faulted : Cause → Prop := fun c => t.self.FAULT = true ∧ t.self.CAUSE = c ∧ t.self.BUSY = false ∧
         t.self.S = e.S ∧ t.self.VSEL = e.VSEL ∧ t.self.BOUND = e.BOUND ∧ t.self.DOUT = zeroBytes 64 ∧
         t.self.rsp = some (faultResponse c e.BOUND)
       if e.FAULT = true then t.self.FAULT = true ∧ t.self.CAUSE = e.CAUSE ∧ t.self.BUSY = false ∧ t.self.S = e.S ∧
         t.self.VSEL = e.VSEL ∧ t.self.BOUND = e.BOUND ∧ t.self.rsp = some (faultResponse e.CAUSE e.BOUND)
       else if ∀ r ∈ cmdRows, r.matchesWord w = false then faulted .illegalCmd
       else if (opcField w = 0x2 ∨ opcField w = 0x3 ∨ opcField w = 0x4 ∨ opcField w = 0x5) ∧ e.BOUND = false
       then faulted .unbound
       else if opcField w = 0x3 ∧ (lenField w).toNat ≠ e.VSEL.rate then faulted .blockLen
       else if opcField w = 0x4 ∧ e.VSEL.rate < (lenField w).toNat then faulted .validLen
       else if opcField w = 0x4 ∧ (n < 1 ∨ (e.VSEL.rate : Int) < n) then faulted .padInternal
       else t.self.FAULT = false ∧ t.self.BUSY = true ∧ t.self.BOUND = true ∧ t.self.SEQ.OPC.code = opcField w)

/-- A fault is permanent: from a state of the invariant, a step of a dead instance that is not a hard reset keeps FAULT, CAUSE and every
other register, and any response it gives carries STATUS alone (60_exceptions.md R189). -/
def Obligations.FaultIsPermanent : Prop :=
  ∀ s : State, s.self.Inv s.fullBlock → s.self.FAULT = true → s.self.rst = false →
    ∃ e : Engine, step s = .next ({ s with self := e.hostMoves } : State).passTurn ∧
      e.FAULT = true ∧ e.CAUSE = s.self.CAUSE ∧ e.BOUND = s.self.BOUND ∧ e.VSEL = s.self.VSEL ∧ e.S = s.self.S ∧
      e.DOUT = zeroBytes 64 ∧ e.SEQ = Seq.rest ∧
      ∀ r, e.rsp = some r → r = faultResponse s.self.CAUSE s.self.BOUND

/-- No digest and no context leave an engine whose response has FAULT = 1, whatever the step (10_state.md R32); and from a state of the
invariant the `status` of a response is 0x01 or a fault's, never 0x00 (30_encoding.md R77). -/
def Obligations.ResponsesAreOkOrEmpty : Prop :=
  ∀ s : State, ∃ e : Engine, step s = .next ({ s with self := e.hostMoves } : State).passTurn ∧
    ∀ r, e.rsp = some r →
      (r.status.getLsbD 2 = true →
        r.rspDlen = 0 ∧ r.dout = zeroBytes 64 ∧ r.ctxVsel = 0 ∧ r.ctxOut = zeroBytes 200) ∧
      (s.self.Inv s.fullBlock →
        r.status = 0x01 ∨ ∃ c b, c ≠ Cause.none ∧ r.status = c.code ++ 0x2#3 ++ BitVec.ofBool b)

/-! ## The step units -/

/-- U_ZERO (40_variant_lifecycle.md R94): S and DOUT zeroed, no other register but SEQ and BUSY changed; then the response. -/
def Obligations.ZeroUnit : Prop :=
  ∀ s : State, ∃ t : State, exec .uZero s = .next t ∧
    (∀ k (h : k < 200), t.self.S[k] = 0) ∧ (∀ k (h : k < 64), t.self.DOUT[k] = 0) ∧
    t.self.rsp = some ⟨t.self.status, 0, zeroBytes 64, 0, zeroBytes 200⟩ ∧
    t = s.onSelf fun e => { e with S := t.self.S, DOUT := t.self.DOUT, SEQ := Seq.rest, BUSY := false, rsp := t.self.rsp }

/-- U_XORIN (41_absorb.md R101, R103): the rate region XORed with BLK, the capacity region and all else kept; next U_B2L. -/
def Obligations.XorinUnit : Prop :=
  ∀ s : State, ∃ t : State, exec .uXorin s = .next t ∧
    (∀ k (h : k < 144), k < s.self.VSEL.rate → t.self.S[k] = s.self.S[k] ^^^ s.self.BLK[k]) ∧
    (∀ k (h : k < 200), s.self.VSEL.rate ≤ k → t.self.S[k] = s.self.S[k]) ∧
    t = s.onSelf fun e => { e with S := t.self.S, SEQ := { e.SEQ with PHASE := .uB2l }, rsp := none }

/-- U_B2L (44_transcoder.md R150): every lane is the little-endian value of its eight bytes; S is kept; next U_THETA with RND = 0. -/
def Obligations.BytesToLanesUnit : Prop :=
  ∀ s : State, ∃ t : State, exec .uB2l s = .next t ∧
    (∀ i (h : i < 25), t.self.A[i].toNat =
      s.self.S[8 * i].toNat + s.self.S[8 * i + 1].toNat * 2 ^ 8 + s.self.S[8 * i + 2].toNat * 2 ^ 16 +
      s.self.S[8 * i + 3].toNat * 2 ^ 24 + s.self.S[8 * i + 4].toNat * 2 ^ 32 + s.self.S[8 * i + 5].toNat * 2 ^ 40 +
      s.self.S[8 * i + 6].toNat * 2 ^ 48 + s.self.S[8 * i + 7].toNat * 2 ^ 56) ∧
    t = s.onSelf fun e => { e with A := t.self.A, SEQ := { e.SEQ with RND := 0, PHASE := .uTheta }, rsp := none }

/-- U_L2B (44_transcoder.md R151): all 200 bytes of S from A, A and all else kept; the next phase by OPC and PASS (45_sequencer.md
R161). For an OPC that no row of R161 has, the phase is a free value (log 10) and the rest still holds. -/
def Obligations.LanesToBytesUnit : Prop :=
  ∀ s : State, ∃ t : State, exec .uL2b s = .next t ∧
    (∀ i (h : i < 25) j (hj : j < 8), t.self.S[8 * i + j] = s.self.A[i].extractLsb' (8 * j) 8) ∧
    t = (s.onSelf fun e => { e with S := t.self.S, SEQ := t.self.SEQ, BUSY := t.self.BUSY, rsp := t.self.rsp }) ∧
    (s.self.SEQ.OPC = .absorb →
      t.self.SEQ = Seq.rest ∧ t.self.BUSY = false ∧
      t.self.rsp = some (({ s.self with BUSY := false } : Engine).response 0 0 (zeroBytes 200))) ∧
    (s.self.SEQ.OPC = .final → s.self.SEQ.PASS = false →
      t.self.SEQ = { s.self.SEQ with PHASE := .uNewblk } ∧ t.self.BUSY = s.self.BUSY ∧ t.self.rsp = none) ∧
    (s.self.SEQ.OPC = .final → s.self.SEQ.PASS = true →
      t.self.SEQ = { s.self.SEQ with PHASE := .uExtract } ∧ t.self.BUSY = s.self.BUSY ∧ t.self.rsp = none)

/-- U_THETA (43_permutation.md R131): C and D from the old lanes, D[x] into every lane of column x; next U_RHOPI. -/
def Obligations.ThetaUnit : Prop :=
  ∀ s : State, ∃ t : State, exec .uTheta s = .next t ∧
    (let a := s.self.A
     let C : Fin 5 → Lane := fun x => a[x.val] ^^^ a[x.val + 5] ^^^ a[x.val + 10] ^^^ a[x.val + 15] ^^^ a[x.val + 20]
     let D : Fin 5 → Lane := fun x => C (x + 4) ^^^ (C (x + 1)).rotateLeft 1
     ∀ x y : Fin 5, t.self.A[5 * y.val + x.val] = a[5 * y.val + x.val] ^^^ D x) ∧
    t = s.onSelf fun e => { e with A := t.self.A, SEQ := { e.SEQ with PHASE := .uRhopi }, rsp := none }

/-- U_RHOPI (43_permutation.md R133): the lane at (x, y) rotated by ROT and written to (y, 2x + 3y mod 5); lane 0 kept; next U_CHI. -/
def Obligations.RhoPiUnit : Prop :=
  ∀ s : State, ∃ t : State, exec .uRhopi s = .next t ∧
    (∀ i : Fin 25, t.self.A[PIDST[i]] = s.self.A[i].rotateLeft ROT[i]) ∧
    (∀ x y : Fin 5, t.self.A[5 * ((2 * x.val + 3 * y.val) % 5) + y.val]'(by omega) =
      (s.self.A[5 * y.val + x.val]).rotateLeft (ROT[5 * y.val + x.val])) ∧
    t.self.A[0] = s.self.A[0] ∧
    t = s.onSelf fun e => { e with A := t.self.A, SEQ := { e.SEQ with PHASE := .uChi }, rsp := none }

/-- The tables of the permutation, which the spec marks as general knowledge (log 15). Of the merged step (43_permutation.md R132): PIDST
by the coordinates, PISRC its inverse, position 0 alone fixed, and the rotation amounts the triangular numbers along the cycle from
(1, 0). The round constants (R137): bits at positions 2^j - 1 only, the two pairs of equal constants, and the 24 listed values. -/
def Obligations.RhoPiTables : Prop :=
  (∀ x y : Fin 5, (PIDST[5 * y.val + x.val]).val = 5 * ((2 * x.val + 3 * y.val) % 5) + y.val) ∧
  (∀ i : Fin 25, PISRC[PIDST[i]] = i) ∧ (∀ i : Fin 25, PIDST[i] = i ↔ i = 0) ∧ ROT[0] = 0 ∧
  (∀ t : Fin 24, ROT[(fun i => PIDST[i])^[t.val] (1 : Fin 25)] = (t.val + 1) * (t.val + 2) / 2 % 64) ∧
  (∀ (ir : Fin 24) (z : Fin 64), RC[ir].getLsbD z.val = true → ∃ j : Fin 7, z.val = 2 ^ j.val - 1) ∧
  RC[6] = RC[20] ∧ RC[5] = RC[22] ∧
  RC[0] = 0x1 ∧ RC[12] = 0x8000808B ∧
  RC[1] = 0x8082 ∧ RC[13] = 0x800000000000008B ∧
  RC[2] = 0x800000000000808A ∧ RC[14] = 0x8000000000008089 ∧
  RC[3] = 0x8000000080008000 ∧ RC[15] = 0x8000000000008003 ∧
  RC[4] = 0x808B ∧ RC[16] = 0x8000000000008002 ∧
  RC[5] = 0x80000001 ∧ RC[17] = 0x8000000000000080 ∧
  RC[6] = 0x8000000080008081 ∧ RC[18] = 0x800A ∧
  RC[7] = 0x8000000000008009 ∧ RC[19] = 0x800000008000000A ∧
  RC[8] = 0x8A ∧ RC[20] = 0x8000000080008081 ∧
  RC[9] = 0x88 ∧ RC[21] = 0x8000000000008080 ∧
  RC[10] = 0x80008009 ∧ RC[22] = 0x80000001 ∧
  RC[11] = 0x8000000A ∧ RC[23] = 0x8000000080008008

/-- The in-place sequence with one temporary gives the result of the scratch-copy form (43_permutation.md R134). -/
def Obligations.RhoPiInPlaceAgrees : Prop := ∀ a : Lanes, rhoPiInPlace a = rhoPi a

/-- U_CHI (43_permutation.md R135): each row from its old lanes; next U_IOTA. -/
def Obligations.ChiUnit : Prop :=
  ∀ s : State, ∃ t : State, exec .uChi s = .next t ∧
    (∀ x y : Fin 5, t.self.A[5 * y.val + x.val] =
      s.self.A[5 * y.val + x.val] ^^^
        (~~~ s.self.A[5 * y.val + (x + 1 : Fin 5).val] &&& s.self.A[5 * y.val + (x + 2 : Fin 5).val])) ∧
    t = s.onSelf fun e => { e with A := t.self.A, SEQ := { e.SEQ with PHASE := .uIota }, rsp := none }

/-- U_IOTA (43_permutation.md R136): lane 0 XORed with RC[RND] (whose values RhoPiTables states), the others kept; next U_THETA with
RND + 1, or U_L2B with RND = 0 after round 23 (45_sequencer.md R161). -/
def Obligations.IotaUnit : Prop :=
  ∀ s : State, ∃ t : State, exec .uIota s = .next t ∧
    t.self.A[0] = s.self.A[0] ^^^ RC[s.self.SEQ.RND] ∧
    (∀ i (h : i < 25), i ≠ 0 → t.self.A[i] = s.self.A[i]) ∧
    (s.self.SEQ.RND.val < 23 → t.self.SEQ.PHASE = .uTheta ∧ t.self.SEQ.RND.val = s.self.SEQ.RND.val + 1) ∧
    (s.self.SEQ.RND.val = 23 → t.self.SEQ.PHASE = .uL2b ∧ t.self.SEQ.RND = 0) ∧
    t.self.SEQ.OPC = s.self.SEQ.OPC ∧ t.self.SEQ.PASS = s.self.SEQ.PASS ∧
    t = s.onSelf fun e => { e with A := t.self.A, SEQ := t.self.SEQ, rsp := none }

/-- U_PAD (42_pad_final.md R113, R116): the padded block byte by byte, and nothing else changed; next U_XORIN. With LEN outside
0..rate-1 BLK is a free value (log 11) and the rest still holds. -/
def Obligations.PadUnit : Prop :=
  ∀ s : State, ∃ t : State, exec .uPad s = .next t ∧
    (s.self.LEN.toNat < s.self.VSEL.rate → ∀ k (h : k < 144),
      t.self.BLK[k] =
        if k < s.self.LEN.toNat then s.self.BLK[k]
        else if s.self.VSEL.rate ≤ k then s.self.BLK[k]
        else if k = s.self.LEN.toNat then (if k = s.self.VSEL.rate - 1 then 0x86 else 0x06)
        else if k = s.self.VSEL.rate - 1 then 0x80
        else 0x00) ∧
    t = s.onSelf fun e => { e with BLK := t.self.BLK, SEQ := { e.SEQ with PHASE := .uXorin }, rsp := none }

/-- The three steps of U_PAD in their order give PadF, and the order of the two ORs does not matter (42_pad_final.md R113, R116). -/
def Obligations.PadStepsGivePadF : Prop :=
  ∀ (v : Variant) (b : Bytes 144) (L : Nat), L < v.rate →
    padSteps v b L = padF v b L ∧
    orByte L v.suffix (orByte (v.rate - 1) 0x80 (padZero v.rate L b)) = padSteps v b L

/-- U_NEWBLK (42_pad_final.md R114): LEN = 0 and PASS = 1, nothing else; next U_PAD. -/
def Obligations.NewBlockUnit : Prop :=
  ∀ s : State, exec .uNewblk s = .next (s.onSelf fun e =>
    { e with LEN := 0, SEQ := { e.SEQ with PASS := true, PHASE := .uPad }, rsp := none })

/-- U_EXTRACT (42_pad_final.md R115): DOUT from S, zero above dlen; S kept; the response with `rsp_dlen` = dlen (10_state.md R32). -/
def Obligations.ExtractUnit : Prop :=
  ∀ s : State, ∃ t : State, exec .uExtract s = .next t ∧
    (∀ k (h : k < 64), t.self.DOUT[k] = if k < s.self.VSEL.dlen then s.self.S[k] else 0) ∧
    (s.self.FAULT = false →
      t.self.rsp = some ⟨t.self.status, BitVec.ofNat 7 s.self.VSEL.dlen, t.self.DOUT, 0, zeroBytes 200⟩) ∧
    t = s.onSelf fun e => { e with DOUT := t.self.DOUT, SEQ := Seq.rest, BUSY := false, rsp := t.self.rsp }

/-- U_CTXOUT (40_variant_lifecycle.md R95): VSEL and S on the ports with the response, no register but SEQ and BUSY written. -/
def Obligations.ContextOutUnit : Prop :=
  ∀ s : State, ∃ t : State, exec .uCtxout s = .next t ∧
    (s.self.FAULT = false → t.self.rsp = some ⟨t.self.status, 0, s.self.DOUT, s.self.VSEL.code, s.self.S⟩) ∧
    t = s.onSelf fun e => { e with SEQ := Seq.rest, BUSY := false, rsp := t.self.rsp }

/-- U_CTXIN (40_variant_lifecycle.md R96): S from the context held at acceptance, DOUT zeroed; then the response. -/
def Obligations.ContextInUnit : Prop :=
  ∀ s : State, ∃ t : State, exec .uCtxin s = .next t ∧
    (∀ k (h : k < 200), t.self.S[k] = s.self.CTX[k]) ∧ (∀ k (h : k < 64), t.self.DOUT[k] = 0) ∧
    t.self.rsp = some ⟨t.self.status, 0, zeroBytes 64, 0, zeroBytes 200⟩ ∧
    t = s.onSelf fun e => { e with S := t.self.S, DOUT := t.self.DOUT, SEQ := Seq.rest, BUSY := false, rsp := t.self.rsp }

/-! ## The data path as functions -/

/-- Transcoding and back is the identity, both ways round (44_transcoder.md R152). -/
def Obligations.TranscoderRoundTrip : Prop :=
  (∀ s : Bytes 200, l2b (b2l s) = s) ∧ ∀ a : Lanes, b2l (l2b a) = a

/-- Bit z of lane A[x,y] is bit z mod 8 of byte S[40*y + 8*x + z div 8] (20_memory.md R52). -/
def Obligations.BitLevelLayout : Prop :=
  ∀ (s : Bytes 200) (x y : Fin 5) (z : Fin 64),
    (b2l s)[5 * y.val + x.val].getLsbD z.val = (s[40 * y.val + 8 * x.val + z.val / 8]'(by omega)).getLsbD (z.val % 8)

/-- The rotation loses no bit: bit j goes to bit (j + n) mod 64, and by 0 it is the identity (43_permutation.md R141). -/
def Obligations.RotationMovesEveryBit : Prop :=
  ∀ v : Lane, rotl64 v 0 = v ∧
    ∀ n j : Nat, n < 64 → j < 64 → (rotl64 v n).getLsbD ((j + n) % 64) = v.getLsbD j

/-- The all-zero block leaves the bare permutation (41_absorb.md R104). -/
def Obligations.ZeroBlockIsPermutation : Prop :=
  ∀ (v : Variant) (s : Bytes 200), xorIn v s (zeroBytes 144) = s ∧ absorbF v s (zeroBytes 144) = keccakP s

/-- The bytes of a block past the rate, and of a last block past `len`, do not matter (30_encoding.md R74). -/
def Obligations.IgnoredBytesDoNotMatter : Prop :=
  ∀ (v : Variant) (s : Bytes 200) (b b' : Bytes 144) (len : Nat),
    ((∀ k (h : k < 144), k < v.rate → b[k] = b'[k]) → absorbF v s b = absorbF v s b') ∧
    (len ≤ v.rate → (∀ k (h : k < 144), k < len → b[k] = b'[k]) → finalF v s b len = finalF v s b' len)

/-- FINAL of a full block is ABSORB of it and then FINAL of nothing, whatever stands on `blk_in` then (42_pad_final.md R111). -/
def Obligations.FullFinalIsAbsorbThenFinal : Prop :=
  ∀ (v : Variant) (s : Bytes 200) (b b' : Bytes 144), finalF v s b v.rate = finalF v (absorbF v s b) b' 0

/-! ## The whole machine -/

/-- The invariant holds right after reset, with any number of instances and either setting (10_state.md R34, 60_exceptions.md R200). -/
def Obligations.InvariantAtReset : Prop :=
  State.reset.Inv ∧ ∀ (n : Nat) (p : FullBlockFinal), (State.powerOn n p).Inv

/-- Every step keeps the invariant: BUSY, SEQ, CAUSE, DOUT and the response stay as the spec says they are (10_state.md R27, R30;
45_sequencer.md R171). -/
def Obligations.StepKeepsInvariant : Prop :=
  ∀ s t : State, s.Inv → step s = .next t → t.Inv

/-- Nothing is ever stuck: every step of every state answers a next state, and so does every instruction (45_sequencer.md R172). -/
def Obligations.EveryStepAnswers : Prop :=
  (∀ s : State, ∃ t, step s = .next t) ∧ ∀ (i : Instr) (s : State), ∃ t, exec i s = .next t

/-- A running command responds after exactly the micro-steps its SEQ has left, at most 201, whatever the data, and gives no response
before (45_sequencer.md R171, R172; 70_reset_and_hazards.md R221). -/
def Obligations.CommandResponds : Prop :=
  ∀ s : State, s.self.Inv s.fullBlock → s.Undisturbed → s.self.BUSY = true →
    0 < s.self.SEQ.stepsLeft ∧ s.self.SEQ.stepsLeft ≤ 201 ∧
    (∀ k, k < s.self.SEQ.stepsLeft → ∃ t : State, core.run k s = .next t ∧ t.self.BUSY = true ∧
      (0 < k → t.self.rsp = none)) ∧
    ∃ t : State, core.run s.self.SEQ.stepsLeft s = .next t ∧ t.self.BUSY = false ∧ t.self.SEQ = Seq.rest ∧
      t.self.rsp.isSome = true

/-- INIT, RESET, CTXWR and CTXRD run to their responses in one micro-step with the effect of their rules (40_variant_lifecycle.md R90 to
R93; 45_sequencer.md R163, R164, R170). -/
def Obligations.LifecycleCommandsComplete : Prop :=
  ∀ (s : State) (v : Variant), s.self.Inv s.fullBlock → s.Undisturbed → s.self.FAULT = false →
    (∃ t u, exec (.init v) s = .next t ∧ core.run 1 t = .next u ∧
      u.self.BOUND = true ∧ u.self.VSEL = v ∧ u.self.S = zeroBytes 200 ∧ u.self.DOUT = zeroBytes 64 ∧
      u.self.FAULT = false ∧ u.self.SEQ = Seq.rest ∧ u.self.BUSY = false ∧
      u.self.rsp = some (okResponse 0 (zeroBytes 64) 0 (zeroBytes 200)) ∧ u.lower = s.lower ∧ u.upper = s.upper) ∧
    (∃ t u, exec (.ctxwr v) s = .next t ∧ core.run 1 t = .next u ∧
      u.self.BOUND = true ∧ u.self.VSEL = v ∧ u.self.S = s.self.ctxIn ∧ u.self.DOUT = zeroBytes 64 ∧
      u.self.FAULT = false ∧ u.self.SEQ = Seq.rest ∧ u.self.BUSY = false ∧
      u.self.rsp = some (okResponse 0 (zeroBytes 64) 0 (zeroBytes 200)) ∧ u.lower = s.lower ∧ u.upper = s.upper) ∧
    (s.self.BOUND = true →
      (∃ t u, exec .reset s = .next t ∧ core.run 1 t = .next u ∧
        u.self.BOUND = true ∧ u.self.VSEL = s.self.VSEL ∧ u.self.S = zeroBytes 200 ∧ u.self.DOUT = zeroBytes 64 ∧
        u.self.FAULT = false ∧ u.self.SEQ = Seq.rest ∧ u.self.BUSY = false ∧
        u.self.rsp = some (okResponse 0 (zeroBytes 64) 0 (zeroBytes 200)) ∧ u.lower = s.lower ∧ u.upper = s.upper) ∧
      (∃ t u, exec .ctxrd s = .next t ∧ core.run 1 t = .next u ∧
        u.self.BOUND = true ∧ u.self.VSEL = s.self.VSEL ∧ u.self.S = s.self.S ∧ u.self.DOUT = s.self.DOUT ∧
        u.self.FAULT = false ∧ u.self.SEQ = Seq.rest ∧ u.self.BUSY = false ∧
        u.self.rsp = some (okResponse 0 s.self.DOUT s.self.VSEL.code s.self.S) ∧
        u.lower = s.lower ∧ u.upper = s.upper))

/-- ABSORB runs to its response in 99 micro-steps: S becomes AbsorbF of the block on the port, DOUT, VSEL and the rest of the
architectural state are kept (41_absorb.md R100, R102; 45_sequencer.md R165, R170). -/
def Obligations.AbsorbCompletes : Prop :=
  ∀ (s : State) (len : Nat), s.self.Inv s.fullBlock → s.Undisturbed → s.self.Ready → len = s.self.VSEL.rate →
    ∃ t u, exec (.absorb len) s = .next t ∧ core.run 99 t = .next u ∧
      u.self.S = absorbF s.self.VSEL s.self.S s.self.blkIn ∧ u.self.DOUT = s.self.DOUT ∧
      u.self.VSEL = s.self.VSEL ∧ u.self.BOUND = true ∧ u.self.FAULT = false ∧ u.self.CAUSE = s.self.CAUSE ∧
      u.self.SEQ = Seq.rest ∧ u.self.BUSY = false ∧
      u.self.rsp = some (okResponse 0 s.self.DOUT 0 (zeroBytes 200)) ∧ u.lower = s.lower ∧ u.upper = s.upper

/-- FINAL runs to its response in 101 micro-steps, or 201 with a full block under extra_block: S and DOUT become those of FinalF, and the
response carries the digest (42_pad_final.md R110, R112, R118; 45_sequencer.md R166, R167, R170). -/
def Obligations.FinalCompletes : Prop :=
  ∀ (s : State) (len : Nat), s.self.Inv s.fullBlock → s.Undisturbed → s.self.Ready → len ≤ s.self.VSEL.rate →
    (len = s.self.VSEL.rate → s.fullBlock = .extraBlock) →
    ∃ t u, exec (.final len) s = .next t ∧
      core.run (if len = s.self.VSEL.rate then 201 else 101) t = .next u ∧
      (u.self.S, u.self.DOUT) = finalF s.self.VSEL s.self.S s.self.blkIn len ∧
      u.self.VSEL = s.self.VSEL ∧ u.self.BOUND = true ∧ u.self.FAULT = false ∧ u.self.CAUSE = s.self.CAUSE ∧
      u.self.SEQ = Seq.rest ∧ u.self.BUSY = false ∧
      u.self.rsp = some (okResponse s.self.VSEL.dlen (finalF s.self.VSEL s.self.S s.self.blkIn len).2 0 (zeroBytes 200)) ∧
      u.lower = s.lower ∧ u.upper = s.upper

/-- Commands run one at a time in the order the host issues them (20_memory.md R59): any number of whole blocks and one last block,
which may be full under extra_block, offered one after another to a ready idle engine, end in the digest register that AbsorbF of each
block in turn and FinalF of the last give (42_pad_final.md R119). The list of what the host does next, and the first step, which puts
the first command on the port, are the model's (log 7), as is the count of steps: an acceptance is a step of its own (log 1), so each
ABSORB takes 1 + 99 and the FINAL 1 + 101, or 1 + 201 with a full block. -/
def Obligations.BlockStreamGivesDigest : Prop :=
  ∀ (s : State) (blocks : List (Bytes 144)) (last : Bytes 144) (len : Nat),
    s.turns = [] → s.self.Inv s.fullBlock → s.self.Ready → s.self.rst = false → s.self.cmdValid = false →
    s.self.BUSY = false → len ≤ s.self.VSEL.rate → (len = s.self.VSEL.rate → s.fullBlock = .extraBlock) →
    s.self.host = blocks.map (offerBlock (.absorb s.self.VSEL.rate)) ++ [offerBlock (.final len) last] →
    ∃ u, core.run (1 + 100 * blocks.length + (if len = s.self.VSEL.rate then 202 else 102)) s = .next u ∧
      (u.self.S, u.self.DOUT) =
        finalF s.self.VSEL (blocks.foldl (absorbF s.self.VSEL) s.self.S) last len ∧
      u.self.rsp = some (okResponse s.self.VSEL.dlen u.self.DOUT 0 (zeroBytes 200)) ∧
      u.self.VSEL = s.self.VSEL ∧ u.self.BUSY = false ∧ u.self.FAULT = false

/-- What an engine holds where the spec gives it no value cannot be seen: VSEL and S of an unbound instance and the transient registers
outside their window change no response and no register that has a meaning, now or later (10_state.md R30, R34;
70_reset_and_hazards.md R225). -/
def Obligations.ScratchIsUnobservable : Prop :=
  ∀ (s : State) (f : Engine), s.self.Inv s.fullBlock → f.Inv s.fullBlock → s.self.LooksLike f →
    ∃ e' f' : Engine, step s = .next ({ s with self := e' } : State).passTurn ∧
      step { s with self := f } = .next ({ s with self := f' } : State).passTurn ∧ e'.LooksLike f'

/-- An instance's step depends on its own state alone and touches no other instance; the parameter never changes (60_exceptions.md R200,
10_state.md R33, 00_scope.md R6). -/
def Obligations.InstancesIndependent : Prop :=
  ∃ f : FullBlockFinal → Engine → Engine, ∀ s : State, ∃ t : State, step s = .next t ∧
    t.instances = s.lower ++ f s.fullBlock s.self :: s.upper ∧ t.fullBlock = s.fullBlock

/-- Steps of two different instances can be taken in either order with the same result for every instance (20_memory.md R60,
60_exceptions.md R200). -/
def Obligations.InterleavingImmaterial : Prop :=
  ∀ (s : State) (i j : Nat), s.turns = [] → i ≠ j → i < s.instances.length → j < s.instances.length →
    ∃ t t' u u' : State, step (s.focus i) = .next t ∧ step (t.focus j) = .next t' ∧
      step (s.focus j) = .next u ∧ step (u.focus i) = .next u' ∧ t'.instances = u'.instances

/-- A clone copies VSEL and S of instance a into instance b and binds b; a is unchanged but for its SEQ, BUSY and response, which end
its CTXRD, and b's command changes no other instance (40_variant_lifecycle.md R97). The states a and b are any two: of two systems, or
of one system before and after its turn goes from instance a to instance b. -/
def Obligations.CloneCopies : Prop :=
  ∀ (a b : State) (r : Response) (a' : State), a.self.FAULT = false → exec .uCtxout a = .next a' → a'.self.rsp = some r →
    b.self.FAULT = false → b.Undisturbed → b.self.ctxIn = r.ctxOut →
    a' = (a.onSelf fun e => { e with SEQ := Seq.rest, BUSY := false, rsp := some r }) ∧
    ∃ t u, exec (.ctxwr (Variant.ofCode r.ctxVsel)) b = .next t ∧ core.run 1 t = .next u ∧
      u.self.VSEL = a.self.VSEL ∧ u.self.S = a.self.S ∧ u.self.BOUND = true ∧ u.lower = b.lower ∧ u.upper = b.upper

/-- Who writes each register (10_state.md R20, R21, R23 to R26): no other instruction changes it. IDLE counts where it accepts an offered
command. -/
def Obligations.RegisterWriters : Prop :=
  ∀ (i : Instr) (s t : State), exec i s = .next t →
    (t.self.S ≠ s.self.S → i = .uZero ∨ i = .uXorin ∨ i = .uL2b ∨ i = .uCtxin) ∧
    (t.self.A ≠ s.self.A → i = .uB2l ∨ i = .uTheta ∨ i = .uRhopi ∨ i = .uChi ∨ i = .uIota) ∧
    (t.self.VSEL ≠ s.self.VSEL →
      (∃ v, i = .init v ∨ i = .ctxwr v) ∨ (i = .idle ∧ s.self.cmdValid = true ∧ s.self.BUSY = false)) ∧
    (t.self.BLK ≠ s.self.BLK →
      (∃ n, i = .absorb n ∨ i = .final n) ∨ i = .uPad ∨ (i = .idle ∧ s.self.cmdValid = true ∧ s.self.BUSY = false)) ∧
    (t.self.LEN ≠ s.self.LEN →
      (∃ n, i = .absorb n ∨ i = .final n) ∨ i = .uNewblk ∨ (i = .idle ∧ s.self.cmdValid = true ∧ s.self.BUSY = false)) ∧
    (t.self.DOUT ≠ s.self.DOUT →
      i = .uExtract ∨ i = .uZero ∨ i = .uCtxin ∨ (s.self.FAULT = false ∧ t.self.FAULT = true)) ∧
    t.lower = s.lower ∧ t.upper = s.upper ∧ t.turns = s.turns ∧ t.fullBlock = s.fullBlock

/-- A command offered while BUSY = 1 is neither accepted nor dropped: it waits on the port (70_reset_and_hazards.md R220). That the host
leaves the offered word and its operands as they are meanwhile, and that its list of what to do next stands still, are the model's
choice (log 7): R220 says only that the command is accepted as it stands at the moment of acceptance. -/
def Obligations.BusyEngineLeavesOffer : Prop :=
  ∀ s : State, s.self.rst = false → s.self.BUSY = true → s.self.cmdValid = true →
    ∃ e : Engine, step s = .next ({ s with self := e } : State).passTurn ∧
      e.cmdValid = true ∧ e.cmd = s.self.cmd ∧ e.blkIn = s.self.blkIn ∧ e.ctxIn = s.self.ctxIn ∧
      e.host = s.self.host ∧ e.BOUND = s.self.BOUND ∧ e.VSEL = s.self.VSEL ∧ e.FAULT = s.self.FAULT
end

