-- ==== Sys2Proof/Laws/State.lean ====
section
/-! SUPPORT. One lemma per field per update, so that no proof unfolds a record update; and what the surroundings of a step leave alone. -/

namespace Sys2Proof.Machine

/-! ### `Engine.goTo` (45_sequencer.md R161) -/

@[simp] theorem Engine.goTo_BOUND (p : Phase) (e : Engine) : (e.goTo p).BOUND = e.BOUND := rfl
@[simp] theorem Engine.goTo_BUSY (p : Phase) (e : Engine) : (e.goTo p).BUSY = e.BUSY := rfl
@[simp] theorem Engine.goTo_FAULT (p : Phase) (e : Engine) : (e.goTo p).FAULT = e.FAULT := rfl
@[simp] theorem Engine.goTo_CAUSE (p : Phase) (e : Engine) : (e.goTo p).CAUSE = e.CAUSE := rfl
@[simp] theorem Engine.goTo_VSEL (p : Phase) (e : Engine) : (e.goTo p).VSEL = e.VSEL := rfl
@[simp] theorem Engine.goTo_S (p : Phase) (e : Engine) : (e.goTo p).S = e.S := rfl
@[simp] theorem Engine.goTo_DOUT (p : Phase) (e : Engine) : (e.goTo p).DOUT = e.DOUT := rfl
@[simp] theorem Engine.goTo_A (p : Phase) (e : Engine) : (e.goTo p).A = e.A := rfl
@[simp] theorem Engine.goTo_BLK (p : Phase) (e : Engine) : (e.goTo p).BLK = e.BLK := rfl
@[simp] theorem Engine.goTo_LEN (p : Phase) (e : Engine) : (e.goTo p).LEN = e.LEN := rfl
@[simp] theorem Engine.goTo_CTX (p : Phase) (e : Engine) : (e.goTo p).CTX = e.CTX := rfl
@[simp] theorem Engine.goTo_SEQ (p : Phase) (e : Engine) : (e.goTo p).SEQ = { e.SEQ with PHASE := p } := rfl
@[simp] theorem Engine.goTo_rst (p : Phase) (e : Engine) : (e.goTo p).rst = e.rst := rfl
@[simp] theorem Engine.goTo_cmdValid (p : Phase) (e : Engine) : (e.goTo p).cmdValid = e.cmdValid := rfl
@[simp] theorem Engine.goTo_cmd (p : Phase) (e : Engine) : (e.goTo p).cmd = e.cmd := rfl
@[simp] theorem Engine.goTo_blkIn (p : Phase) (e : Engine) : (e.goTo p).blkIn = e.blkIn := rfl
@[simp] theorem Engine.goTo_ctxIn (p : Phase) (e : Engine) : (e.goTo p).ctxIn = e.ctxIn := rfl
@[simp] theorem Engine.goTo_rsp (p : Phase) (e : Engine) : (e.goTo p).rsp = none := rfl
@[simp] theorem Engine.goTo_host (p : Phase) (e : Engine) : (e.goTo p).host = e.host := rfl

/-! ### `Engine.atRest` (10_state.md R30) -/

@[simp] theorem Engine.atRest_BOUND (e : Engine) : e.atRest.BOUND = e.BOUND := rfl
@[simp] theorem Engine.atRest_BUSY (e : Engine) : e.atRest.BUSY = false := rfl
@[simp] theorem Engine.atRest_FAULT (e : Engine) : e.atRest.FAULT = e.FAULT := rfl
@[simp] theorem Engine.atRest_CAUSE (e : Engine) : e.atRest.CAUSE = e.CAUSE := rfl
@[simp] theorem Engine.atRest_VSEL (e : Engine) : e.atRest.VSEL = e.VSEL := rfl
@[simp] theorem Engine.atRest_S (e : Engine) : e.atRest.S = e.S := rfl
@[simp] theorem Engine.atRest_DOUT (e : Engine) : e.atRest.DOUT = e.DOUT := rfl
@[simp] theorem Engine.atRest_A (e : Engine) : e.atRest.A = e.A := rfl
@[simp] theorem Engine.atRest_BLK (e : Engine) : e.atRest.BLK = e.BLK := rfl
@[simp] theorem Engine.atRest_LEN (e : Engine) : e.atRest.LEN = e.LEN := rfl
@[simp] theorem Engine.atRest_CTX (e : Engine) : e.atRest.CTX = e.CTX := rfl
@[simp] theorem Engine.atRest_SEQ (e : Engine) : e.atRest.SEQ = Seq.rest := rfl
@[simp] theorem Engine.atRest_rst (e : Engine) : e.atRest.rst = e.rst := rfl
@[simp] theorem Engine.atRest_cmdValid (e : Engine) : e.atRest.cmdValid = e.cmdValid := rfl
@[simp] theorem Engine.atRest_cmd (e : Engine) : e.atRest.cmd = e.cmd := rfl
@[simp] theorem Engine.atRest_blkIn (e : Engine) : e.atRest.blkIn = e.blkIn := rfl
@[simp] theorem Engine.atRest_ctxIn (e : Engine) : e.atRest.ctxIn = e.ctxIn := rfl
@[simp] theorem Engine.atRest_rsp (e : Engine) : e.atRest.rsp = e.rsp := rfl
@[simp] theorem Engine.atRest_host (e : Engine) : e.atRest.host = e.host := rfl

/-! ### `Engine.finish` (45_sequencer.md R161, 10_state.md R32) -/

@[simp] theorem Engine.finish_BOUND (d : BitVec 7) (v : BitVec 2) (c : Bytes 200) (e : Engine) : (e.finish d v c).BOUND = e.BOUND := rfl
@[simp] theorem Engine.finish_BUSY (d : BitVec 7) (v : BitVec 2) (c : Bytes 200) (e : Engine) : (e.finish d v c).BUSY = false := rfl
@[simp] theorem Engine.finish_FAULT (d : BitVec 7) (v : BitVec 2) (c : Bytes 200) (e : Engine) : (e.finish d v c).FAULT = e.FAULT := rfl
@[simp] theorem Engine.finish_CAUSE (d : BitVec 7) (v : BitVec 2) (c : Bytes 200) (e : Engine) : (e.finish d v c).CAUSE = e.CAUSE := rfl
@[simp] theorem Engine.finish_VSEL (d : BitVec 7) (v : BitVec 2) (c : Bytes 200) (e : Engine) : (e.finish d v c).VSEL = e.VSEL := rfl
@[simp] theorem Engine.finish_S (d : BitVec 7) (v : BitVec 2) (c : Bytes 200) (e : Engine) : (e.finish d v c).S = e.S := rfl
@[simp] theorem Engine.finish_DOUT (d : BitVec 7) (v : BitVec 2) (c : Bytes 200) (e : Engine) : (e.finish d v c).DOUT = e.DOUT := rfl
@[simp] theorem Engine.finish_A (d : BitVec 7) (v : BitVec 2) (c : Bytes 200) (e : Engine) : (e.finish d v c).A = e.A := rfl
@[simp] theorem Engine.finish_BLK (d : BitVec 7) (v : BitVec 2) (c : Bytes 200) (e : Engine) : (e.finish d v c).BLK = e.BLK := rfl
@[simp] theorem Engine.finish_LEN (d : BitVec 7) (v : BitVec 2) (c : Bytes 200) (e : Engine) : (e.finish d v c).LEN = e.LEN := rfl
@[simp] theorem Engine.finish_CTX (d : BitVec 7) (v : BitVec 2) (c : Bytes 200) (e : Engine) : (e.finish d v c).CTX = e.CTX := rfl
@[simp] theorem Engine.finish_SEQ (d : BitVec 7) (v : BitVec 2) (c : Bytes 200) (e : Engine) : (e.finish d v c).SEQ = Seq.rest := rfl
@[simp] theorem Engine.finish_rst (d : BitVec 7) (v : BitVec 2) (c : Bytes 200) (e : Engine) : (e.finish d v c).rst = e.rst := rfl
@[simp] theorem Engine.finish_cmdValid (d : BitVec 7) (v : BitVec 2) (c : Bytes 200) (e : Engine) :
    (e.finish d v c).cmdValid = e.cmdValid := rfl
@[simp] theorem Engine.finish_cmd (d : BitVec 7) (v : BitVec 2) (c : Bytes 200) (e : Engine) : (e.finish d v c).cmd = e.cmd := rfl
@[simp] theorem Engine.finish_blkIn (d : BitVec 7) (v : BitVec 2) (c : Bytes 200) (e : Engine) : (e.finish d v c).blkIn = e.blkIn := rfl
@[simp] theorem Engine.finish_ctxIn (d : BitVec 7) (v : BitVec 2) (c : Bytes 200) (e : Engine) : (e.finish d v c).ctxIn = e.ctxIn := rfl
@[simp] theorem Engine.finish_rsp (d : BitVec 7) (v : BitVec 2) (c : Bytes 200) (e : Engine) :
    (e.finish d v c).rsp = some (e.atRest.response d v c) := rfl
@[simp] theorem Engine.finish_host (d : BitVec 7) (v : BitVec 2) (c : Bytes 200) (e : Engine) : (e.finish d v c).host = e.host := rfl

/-! ### `Engine.respond` (45_sequencer.md R161) -/

@[simp] theorem Engine.respond_BOUND (e : Engine) : (e.respond).BOUND = e.BOUND := rfl
@[simp] theorem Engine.respond_BUSY (e : Engine) : (e.respond).BUSY = false := rfl
@[simp] theorem Engine.respond_FAULT (e : Engine) : (e.respond).FAULT = e.FAULT := rfl
@[simp] theorem Engine.respond_CAUSE (e : Engine) : (e.respond).CAUSE = e.CAUSE := rfl
@[simp] theorem Engine.respond_VSEL (e : Engine) : (e.respond).VSEL = e.VSEL := rfl
@[simp] theorem Engine.respond_S (e : Engine) : (e.respond).S = e.S := rfl
@[simp] theorem Engine.respond_DOUT (e : Engine) : (e.respond).DOUT = e.DOUT := rfl
@[simp] theorem Engine.respond_A (e : Engine) : (e.respond).A = e.A := rfl
@[simp] theorem Engine.respond_BLK (e : Engine) : (e.respond).BLK = e.BLK := rfl
@[simp] theorem Engine.respond_LEN (e : Engine) : (e.respond).LEN = e.LEN := rfl
@[simp] theorem Engine.respond_CTX (e : Engine) : (e.respond).CTX = e.CTX := rfl
@[simp] theorem Engine.respond_SEQ (e : Engine) : (e.respond).SEQ = Seq.rest := rfl
@[simp] theorem Engine.respond_rst (e : Engine) : (e.respond).rst = e.rst := rfl
@[simp] theorem Engine.respond_cmdValid (e : Engine) : (e.respond).cmdValid = e.cmdValid := rfl
@[simp] theorem Engine.respond_cmd (e : Engine) : (e.respond).cmd = e.cmd := rfl
@[simp] theorem Engine.respond_blkIn (e : Engine) : (e.respond).blkIn = e.blkIn := rfl
@[simp] theorem Engine.respond_ctxIn (e : Engine) : (e.respond).ctxIn = e.ctxIn := rfl
@[simp] theorem Engine.respond_rsp (e : Engine) :
    (e.respond).rsp = some (e.atRest.response 0 0 (zeroBytes 200)) := rfl
@[simp] theorem Engine.respond_host (e : Engine) : (e.respond).host = e.host := rfl

/-! ### `Engine.setRnd` (45_sequencer.md R161) -/

@[simp] theorem Engine.setRnd_BOUND (r : Fin 24) (e : Engine) : (e.setRnd r).BOUND = e.BOUND := rfl
@[simp] theorem Engine.setRnd_BUSY (r : Fin 24) (e : Engine) : (e.setRnd r).BUSY = e.BUSY := rfl
@[simp] theorem Engine.setRnd_FAULT (r : Fin 24) (e : Engine) : (e.setRnd r).FAULT = e.FAULT := rfl
@[simp] theorem Engine.setRnd_CAUSE (r : Fin 24) (e : Engine) : (e.setRnd r).CAUSE = e.CAUSE := rfl
@[simp] theorem Engine.setRnd_VSEL (r : Fin 24) (e : Engine) : (e.setRnd r).VSEL = e.VSEL := rfl
@[simp] theorem Engine.setRnd_S (r : Fin 24) (e : Engine) : (e.setRnd r).S = e.S := rfl
@[simp] theorem Engine.setRnd_DOUT (r : Fin 24) (e : Engine) : (e.setRnd r).DOUT = e.DOUT := rfl
@[simp] theorem Engine.setRnd_A (r : Fin 24) (e : Engine) : (e.setRnd r).A = e.A := rfl
@[simp] theorem Engine.setRnd_BLK (r : Fin 24) (e : Engine) : (e.setRnd r).BLK = e.BLK := rfl
@[simp] theorem Engine.setRnd_LEN (r : Fin 24) (e : Engine) : (e.setRnd r).LEN = e.LEN := rfl
@[simp] theorem Engine.setRnd_CTX (r : Fin 24) (e : Engine) : (e.setRnd r).CTX = e.CTX := rfl
@[simp] theorem Engine.setRnd_SEQ (r : Fin 24) (e : Engine) : (e.setRnd r).SEQ = { e.SEQ with RND := r } := rfl
@[simp] theorem Engine.setRnd_rst (r : Fin 24) (e : Engine) : (e.setRnd r).rst = e.rst := rfl
@[simp] theorem Engine.setRnd_cmdValid (r : Fin 24) (e : Engine) : (e.setRnd r).cmdValid = e.cmdValid := rfl
@[simp] theorem Engine.setRnd_cmd (r : Fin 24) (e : Engine) : (e.setRnd r).cmd = e.cmd := rfl
@[simp] theorem Engine.setRnd_blkIn (r : Fin 24) (e : Engine) : (e.setRnd r).blkIn = e.blkIn := rfl
@[simp] theorem Engine.setRnd_ctxIn (r : Fin 24) (e : Engine) : (e.setRnd r).ctxIn = e.ctxIn := rfl
@[simp] theorem Engine.setRnd_rsp (r : Fin 24) (e : Engine) : (e.setRnd r).rsp = e.rsp := rfl
@[simp] theorem Engine.setRnd_host (r : Fin 24) (e : Engine) : (e.setRnd r).host = e.host := rfl

/-! ### `Engine.launch` (45_sequencer.md R162) -/

@[simp] theorem Engine.launch_BOUND (o : Opc) (b : Bool) (p : Phase) (e : Engine) : (e.launch o b p).BOUND = e.BOUND := rfl
@[simp] theorem Engine.launch_BUSY (o : Opc) (b : Bool) (p : Phase) (e : Engine) : (e.launch o b p).BUSY = e.BUSY := rfl
@[simp] theorem Engine.launch_FAULT (o : Opc) (b : Bool) (p : Phase) (e : Engine) : (e.launch o b p).FAULT = e.FAULT := rfl
@[simp] theorem Engine.launch_CAUSE (o : Opc) (b : Bool) (p : Phase) (e : Engine) : (e.launch o b p).CAUSE = e.CAUSE := rfl
@[simp] theorem Engine.launch_VSEL (o : Opc) (b : Bool) (p : Phase) (e : Engine) : (e.launch o b p).VSEL = e.VSEL := rfl
@[simp] theorem Engine.launch_S (o : Opc) (b : Bool) (p : Phase) (e : Engine) : (e.launch o b p).S = e.S := rfl
@[simp] theorem Engine.launch_DOUT (o : Opc) (b : Bool) (p : Phase) (e : Engine) : (e.launch o b p).DOUT = e.DOUT := rfl
@[simp] theorem Engine.launch_A (o : Opc) (b : Bool) (p : Phase) (e : Engine) : (e.launch o b p).A = e.A := rfl
@[simp] theorem Engine.launch_BLK (o : Opc) (b : Bool) (p : Phase) (e : Engine) : (e.launch o b p).BLK = e.BLK := rfl
@[simp] theorem Engine.launch_LEN (o : Opc) (b : Bool) (p : Phase) (e : Engine) : (e.launch o b p).LEN = e.LEN := rfl
@[simp] theorem Engine.launch_CTX (o : Opc) (b : Bool) (p : Phase) (e : Engine) : (e.launch o b p).CTX = e.CTX := rfl
@[simp] theorem Engine.launch_SEQ (o : Opc) (b : Bool) (p : Phase) (e : Engine) :
    (e.launch o b p).SEQ = { OPC := o, PASS := b, RND := 0, PHASE := p } := rfl
@[simp] theorem Engine.launch_rst (o : Opc) (b : Bool) (p : Phase) (e : Engine) : (e.launch o b p).rst = e.rst := rfl
@[simp] theorem Engine.launch_cmdValid (o : Opc) (b : Bool) (p : Phase) (e : Engine) : (e.launch o b p).cmdValid = e.cmdValid := rfl
@[simp] theorem Engine.launch_cmd (o : Opc) (b : Bool) (p : Phase) (e : Engine) : (e.launch o b p).cmd = e.cmd := rfl
@[simp] theorem Engine.launch_blkIn (o : Opc) (b : Bool) (p : Phase) (e : Engine) : (e.launch o b p).blkIn = e.blkIn := rfl
@[simp] theorem Engine.launch_ctxIn (o : Opc) (b : Bool) (p : Phase) (e : Engine) : (e.launch o b p).ctxIn = e.ctxIn := rfl
@[simp] theorem Engine.launch_rsp (o : Opc) (b : Bool) (p : Phase) (e : Engine) : (e.launch o b p).rsp = e.rsp := rfl
@[simp] theorem Engine.launch_host (o : Opc) (b : Bool) (p : Phase) (e : Engine) : (e.launch o b p).host = e.host := rfl

/-! ### `Engine.take` (45_sequencer.md R162) -/

@[simp] theorem Engine.take_BOUND (e : Engine) : (e.take).BOUND = e.BOUND := rfl
@[simp] theorem Engine.take_BUSY (e : Engine) : (e.take).BUSY = true := rfl
@[simp] theorem Engine.take_FAULT (e : Engine) : (e.take).FAULT = e.FAULT := rfl
@[simp] theorem Engine.take_CAUSE (e : Engine) : (e.take).CAUSE = e.CAUSE := rfl
@[simp] theorem Engine.take_VSEL (e : Engine) : (e.take).VSEL = e.VSEL := rfl
@[simp] theorem Engine.take_S (e : Engine) : (e.take).S = e.S := rfl
@[simp] theorem Engine.take_DOUT (e : Engine) : (e.take).DOUT = e.DOUT := rfl
@[simp] theorem Engine.take_A (e : Engine) : (e.take).A = e.A := rfl
@[simp] theorem Engine.take_BLK (e : Engine) : (e.take).BLK = e.BLK := rfl
@[simp] theorem Engine.take_LEN (e : Engine) : (e.take).LEN = e.LEN := rfl
@[simp] theorem Engine.take_CTX (e : Engine) : (e.take).CTX = e.CTX := rfl
@[simp] theorem Engine.take_SEQ (e : Engine) : (e.take).SEQ = e.SEQ := rfl
@[simp] theorem Engine.take_rst (e : Engine) : (e.take).rst = e.rst := rfl
@[simp] theorem Engine.take_cmdValid (e : Engine) : (e.take).cmdValid = false := rfl
@[simp] theorem Engine.take_cmd (e : Engine) : (e.take).cmd = e.cmd := rfl
@[simp] theorem Engine.take_blkIn (e : Engine) : (e.take).blkIn = e.blkIn := rfl
@[simp] theorem Engine.take_ctxIn (e : Engine) : (e.take).ctxIn = e.ctxIn := rfl
@[simp] theorem Engine.take_rsp (e : Engine) : (e.take).rsp = none := rfl
@[simp] theorem Engine.take_host (e : Engine) : (e.take).host = e.host := rfl

/-! ### `Engine.takeFault` (60_exceptions.md R184) -/

@[simp] theorem Engine.takeFault_BOUND (c : Cause) (e : Engine) : (e.takeFault c).BOUND = e.BOUND := rfl
@[simp] theorem Engine.takeFault_BUSY (c : Cause) (e : Engine) : (e.takeFault c).BUSY = false := rfl
@[simp] theorem Engine.takeFault_FAULT (c : Cause) (e : Engine) : (e.takeFault c).FAULT = true := rfl
@[simp] theorem Engine.takeFault_CAUSE (c : Cause) (e : Engine) : (e.takeFault c).CAUSE = c := rfl
@[simp] theorem Engine.takeFault_VSEL (c : Cause) (e : Engine) : (e.takeFault c).VSEL = e.VSEL := rfl
@[simp] theorem Engine.takeFault_S (c : Cause) (e : Engine) : (e.takeFault c).S = e.S := rfl
@[simp] theorem Engine.takeFault_DOUT (c : Cause) (e : Engine) : (e.takeFault c).DOUT = zeroBytes 64 := rfl
@[simp] theorem Engine.takeFault_A (c : Cause) (e : Engine) : (e.takeFault c).A = e.A := rfl
@[simp] theorem Engine.takeFault_BLK (c : Cause) (e : Engine) : (e.takeFault c).BLK = e.BLK := rfl
@[simp] theorem Engine.takeFault_LEN (c : Cause) (e : Engine) : (e.takeFault c).LEN = e.LEN := rfl
@[simp] theorem Engine.takeFault_CTX (c : Cause) (e : Engine) : (e.takeFault c).CTX = e.CTX := rfl
@[simp] theorem Engine.takeFault_SEQ (c : Cause) (e : Engine) : (e.takeFault c).SEQ = Seq.rest := rfl
@[simp] theorem Engine.takeFault_rst (c : Cause) (e : Engine) : (e.takeFault c).rst = e.rst := rfl
@[simp] theorem Engine.takeFault_cmdValid (c : Cause) (e : Engine) : (e.takeFault c).cmdValid = e.cmdValid := rfl
@[simp] theorem Engine.takeFault_cmd (c : Cause) (e : Engine) : (e.takeFault c).cmd = e.cmd := rfl
@[simp] theorem Engine.takeFault_blkIn (c : Cause) (e : Engine) : (e.takeFault c).blkIn = e.blkIn := rfl
@[simp] theorem Engine.takeFault_ctxIn (c : Cause) (e : Engine) : (e.takeFault c).ctxIn = e.ctxIn := rfl
@[simp] theorem Engine.takeFault_rsp (c : Cause) (e : Engine) :
    (e.takeFault c).rsp = some (({ e with FAULT := true, CAUSE := c, DOUT := zeroBytes 64 } : Engine).atRest.response 0 0 (zeroBytes 200)) := rfl
@[simp] theorem Engine.takeFault_host (c : Cause) (e : Engine) : (e.takeFault c).host = e.host := rfl

/-! ### `Engine.loadBlock` (10_state.md R24, R26) -/

@[simp] theorem Engine.loadBlock_BOUND (n : Nat) (e : Engine) : (e.loadBlock n).BOUND = e.BOUND := rfl
@[simp] theorem Engine.loadBlock_BUSY (n : Nat) (e : Engine) : (e.loadBlock n).BUSY = e.BUSY := rfl
@[simp] theorem Engine.loadBlock_FAULT (n : Nat) (e : Engine) : (e.loadBlock n).FAULT = e.FAULT := rfl
@[simp] theorem Engine.loadBlock_CAUSE (n : Nat) (e : Engine) : (e.loadBlock n).CAUSE = e.CAUSE := rfl
@[simp] theorem Engine.loadBlock_VSEL (n : Nat) (e : Engine) : (e.loadBlock n).VSEL = e.VSEL := rfl
@[simp] theorem Engine.loadBlock_S (n : Nat) (e : Engine) : (e.loadBlock n).S = e.S := rfl
@[simp] theorem Engine.loadBlock_DOUT (n : Nat) (e : Engine) : (e.loadBlock n).DOUT = e.DOUT := rfl
@[simp] theorem Engine.loadBlock_A (n : Nat) (e : Engine) : (e.loadBlock n).A = e.A := rfl
@[simp] theorem Engine.loadBlock_BLK (n : Nat) (e : Engine) : (e.loadBlock n).BLK = e.blkIn := rfl
@[simp] theorem Engine.loadBlock_LEN (n : Nat) (e : Engine) : (e.loadBlock n).LEN = BitVec.ofNat 8 n := rfl
@[simp] theorem Engine.loadBlock_CTX (n : Nat) (e : Engine) : (e.loadBlock n).CTX = e.CTX := rfl
@[simp] theorem Engine.loadBlock_SEQ (n : Nat) (e : Engine) : (e.loadBlock n).SEQ = e.SEQ := rfl
@[simp] theorem Engine.loadBlock_rst (n : Nat) (e : Engine) : (e.loadBlock n).rst = e.rst := rfl
@[simp] theorem Engine.loadBlock_cmdValid (n : Nat) (e : Engine) : (e.loadBlock n).cmdValid = e.cmdValid := rfl
@[simp] theorem Engine.loadBlock_cmd (n : Nat) (e : Engine) : (e.loadBlock n).cmd = e.cmd := rfl
@[simp] theorem Engine.loadBlock_blkIn (n : Nat) (e : Engine) : (e.loadBlock n).blkIn = e.blkIn := rfl
@[simp] theorem Engine.loadBlock_ctxIn (n : Nat) (e : Engine) : (e.loadBlock n).ctxIn = e.ctxIn := rfl
@[simp] theorem Engine.loadBlock_rsp (n : Nat) (e : Engine) : (e.loadBlock n).rsp = e.rsp := rfl
@[simp] theorem Engine.loadBlock_host (n : Nat) (e : Engine) : (e.loadBlock n).host = e.host := rfl

/-! ### `Engine.loadContext` (45_sequencer.md R162) -/

@[simp] theorem Engine.loadContext_BOUND (e : Engine) : (e.loadContext).BOUND = e.BOUND := rfl
@[simp] theorem Engine.loadContext_BUSY (e : Engine) : (e.loadContext).BUSY = e.BUSY := rfl
@[simp] theorem Engine.loadContext_FAULT (e : Engine) : (e.loadContext).FAULT = e.FAULT := rfl
@[simp] theorem Engine.loadContext_CAUSE (e : Engine) : (e.loadContext).CAUSE = e.CAUSE := rfl
@[simp] theorem Engine.loadContext_VSEL (e : Engine) : (e.loadContext).VSEL = e.VSEL := rfl
@[simp] theorem Engine.loadContext_S (e : Engine) : (e.loadContext).S = e.S := rfl
@[simp] theorem Engine.loadContext_DOUT (e : Engine) : (e.loadContext).DOUT = e.DOUT := rfl
@[simp] theorem Engine.loadContext_A (e : Engine) : (e.loadContext).A = e.A := rfl
@[simp] theorem Engine.loadContext_BLK (e : Engine) : (e.loadContext).BLK = e.BLK := rfl
@[simp] theorem Engine.loadContext_LEN (e : Engine) : (e.loadContext).LEN = e.LEN := rfl
@[simp] theorem Engine.loadContext_CTX (e : Engine) : (e.loadContext).CTX = e.ctxIn := rfl
@[simp] theorem Engine.loadContext_SEQ (e : Engine) : (e.loadContext).SEQ = e.SEQ := rfl
@[simp] theorem Engine.loadContext_rst (e : Engine) : (e.loadContext).rst = e.rst := rfl
@[simp] theorem Engine.loadContext_cmdValid (e : Engine) : (e.loadContext).cmdValid = e.cmdValid := rfl
@[simp] theorem Engine.loadContext_cmd (e : Engine) : (e.loadContext).cmd = e.cmd := rfl
@[simp] theorem Engine.loadContext_blkIn (e : Engine) : (e.loadContext).blkIn = e.blkIn := rfl
@[simp] theorem Engine.loadContext_ctxIn (e : Engine) : (e.loadContext).ctxIn = e.ctxIn := rfl
@[simp] theorem Engine.loadContext_rsp (e : Engine) : (e.loadContext).rsp = e.rsp := rfl
@[simp] theorem Engine.loadContext_host (e : Engine) : (e.loadContext).host = e.host := rfl

/-! ### `Engine.bind` (40_variant_lifecycle.md R90, R93) -/

@[simp] theorem Engine.bind_BOUND (v : Variant) (e : Engine) : (e.bind v).BOUND = true := rfl
@[simp] theorem Engine.bind_BUSY (v : Variant) (e : Engine) : (e.bind v).BUSY = e.BUSY := rfl
@[simp] theorem Engine.bind_FAULT (v : Variant) (e : Engine) : (e.bind v).FAULT = e.FAULT := rfl
@[simp] theorem Engine.bind_CAUSE (v : Variant) (e : Engine) : (e.bind v).CAUSE = e.CAUSE := rfl
@[simp] theorem Engine.bind_VSEL (v : Variant) (e : Engine) : (e.bind v).VSEL = v := rfl
@[simp] theorem Engine.bind_S (v : Variant) (e : Engine) : (e.bind v).S = e.S := rfl
@[simp] theorem Engine.bind_DOUT (v : Variant) (e : Engine) : (e.bind v).DOUT = e.DOUT := rfl
@[simp] theorem Engine.bind_A (v : Variant) (e : Engine) : (e.bind v).A = e.A := rfl
@[simp] theorem Engine.bind_BLK (v : Variant) (e : Engine) : (e.bind v).BLK = e.BLK := rfl
@[simp] theorem Engine.bind_LEN (v : Variant) (e : Engine) : (e.bind v).LEN = e.LEN := rfl
@[simp] theorem Engine.bind_CTX (v : Variant) (e : Engine) : (e.bind v).CTX = e.CTX := rfl
@[simp] theorem Engine.bind_SEQ (v : Variant) (e : Engine) : (e.bind v).SEQ = e.SEQ := rfl
@[simp] theorem Engine.bind_rst (v : Variant) (e : Engine) : (e.bind v).rst = e.rst := rfl
@[simp] theorem Engine.bind_cmdValid (v : Variant) (e : Engine) : (e.bind v).cmdValid = e.cmdValid := rfl
@[simp] theorem Engine.bind_cmd (v : Variant) (e : Engine) : (e.bind v).cmd = e.cmd := rfl
@[simp] theorem Engine.bind_blkIn (v : Variant) (e : Engine) : (e.bind v).blkIn = e.blkIn := rfl
@[simp] theorem Engine.bind_ctxIn (v : Variant) (e : Engine) : (e.bind v).ctxIn = e.ctxIn := rfl
@[simp] theorem Engine.bind_rsp (v : Variant) (e : Engine) : (e.bind v).rsp = e.rsp := rfl
@[simp] theorem Engine.bind_host (v : Variant) (e : Engine) : (e.bind v).host = e.host := rfl

/-! ### `Engine.hostMoves`: only input ports and what the host has still to do change (10_state.md R31) -/

@[simp] theorem Engine.hostMoves_BOUND (e : Engine) : e.hostMoves.BOUND = e.BOUND := by
  unfold Engine.hostMoves; repeat' split
  all_goals rfl
@[simp] theorem Engine.hostMoves_BUSY (e : Engine) : e.hostMoves.BUSY = e.BUSY := by
  unfold Engine.hostMoves; repeat' split
  all_goals rfl
@[simp] theorem Engine.hostMoves_FAULT (e : Engine) : e.hostMoves.FAULT = e.FAULT := by
  unfold Engine.hostMoves; repeat' split
  all_goals rfl
@[simp] theorem Engine.hostMoves_CAUSE (e : Engine) : e.hostMoves.CAUSE = e.CAUSE := by
  unfold Engine.hostMoves; repeat' split
  all_goals rfl
@[simp] theorem Engine.hostMoves_VSEL (e : Engine) : e.hostMoves.VSEL = e.VSEL := by
  unfold Engine.hostMoves; repeat' split
  all_goals rfl
@[simp] theorem Engine.hostMoves_S (e : Engine) : e.hostMoves.S = e.S := by
  unfold Engine.hostMoves; repeat' split
  all_goals rfl
@[simp] theorem Engine.hostMoves_DOUT (e : Engine) : e.hostMoves.DOUT = e.DOUT := by
  unfold Engine.hostMoves; repeat' split
  all_goals rfl
@[simp] theorem Engine.hostMoves_A (e : Engine) : e.hostMoves.A = e.A := by
  unfold Engine.hostMoves; repeat' split
  all_goals rfl
@[simp] theorem Engine.hostMoves_BLK (e : Engine) : e.hostMoves.BLK = e.BLK := by
  unfold Engine.hostMoves; repeat' split
  all_goals rfl
@[simp] theorem Engine.hostMoves_LEN (e : Engine) : e.hostMoves.LEN = e.LEN := by
  unfold Engine.hostMoves; repeat' split
  all_goals rfl
@[simp] theorem Engine.hostMoves_CTX (e : Engine) : e.hostMoves.CTX = e.CTX := by
  unfold Engine.hostMoves; repeat' split
  all_goals rfl
@[simp] theorem Engine.hostMoves_SEQ (e : Engine) : e.hostMoves.SEQ = e.SEQ := by
  unfold Engine.hostMoves; repeat' split
  all_goals rfl
@[simp] theorem Engine.hostMoves_rsp (e : Engine) : e.hostMoves.rsp = e.rsp := by
  unfold Engine.hostMoves; repeat' split
  all_goals rfl

/-! ### The system -/

@[simp] theorem State.onSelf_lower (f : Engine → Engine) (s : State) : (s.onSelf f).lower = s.lower := rfl
@[simp] theorem State.onSelf_self (f : Engine → Engine) (s : State) : (s.onSelf f).self = f s.self := rfl
@[simp] theorem State.onSelf_upper (f : Engine → Engine) (s : State) : (s.onSelf f).upper = s.upper := rfl
@[simp] theorem State.onSelf_turns (f : Engine → Engine) (s : State) : (s.onSelf f).turns = s.turns := rfl
@[simp] theorem State.onSelf_fullBlock (f : Engine → Engine) (s : State) : (s.onSelf f).fullBlock = s.fullBlock := rfl

@[simp] theorem State.onSelf_onSelf (f g : Engine → Engine) (s : State) :
    (s.onSelf f).onSelf g = s.onSelf fun e => g (f e) := rfl

/-- Singling out an instance leaves the instances as they are (60_exceptions.md R200). -/
@[simp] theorem State.focus_instances (k : Nat) (s : State) : (s.focus k).instances = s.instances := by
  unfold State.focus
  split
  · rfl
  next e rest h =>
    have : s.instances.take k ++ s.instances.drop k = s.instances := List.take_append_drop k _
    rw [h] at this
    exact this

@[simp] theorem State.focus_fullBlock (k : Nat) (s : State) : (s.focus k).fullBlock = s.fullBlock := by
  unfold State.focus; split <;> rfl

@[simp] theorem State.passTurn_instances (s : State) : s.passTurn.instances = s.instances := by
  unfold State.passTurn
  split
  · rfl
  next k ks h => exact State.focus_instances k s

@[simp] theorem State.passTurn_fullBlock (s : State) : s.passTurn.fullBlock = s.fullBlock := by
  unfold State.passTurn
  split
  · rfl
  next k ks h => exact State.focus_fullBlock k s

/-- With no turn named the same instance goes on. -/
theorem State.passTurn_of_nil {s : State} (h : s.turns = []) : s.passTurn = s := by
  unfold State.passTurn; rw [h]

@[simp] theorem State.after_fullBlock (s : State) : s.after.fullBlock = s.fullBlock := by
  simp [State.after]

/-- What surrounds an instruction touches the one instance only. -/
theorem State.after_instances (s : State) : s.after.instances = s.lower ++ s.self.hostMoves :: s.upper :=
  State.passTurn_instances _

/-- With no turn named, what surrounds an instruction is the host's move. -/
theorem State.after_of_nil {s : State} (h : s.turns = []) : s.after = s.onSelf Engine.hostMoves :=
  State.passTurn_of_nil h

end Sys2Proof.Machine
end

