-- ==== Sys2Proof/Laws/Exec.lean ====
section
/-! SUPPORT. What an instruction and a step can do, said once: every instruction answers a next state, in which only the instance whose
turn it is has moved, by a function of that instance and of P_FULLBLOCK_FINAL. -/

namespace Sys2Proof.Machine

/-- What an instruction does to the instance it runs on. -/
def unitOf (p : FullBlockFinal) : Instr → Engine → Engine
  | .init v => acceptInit v
  | .reset => acceptReset
  | .absorb len => acceptAbsorb len
  | .final len => acceptFinal p len
  | .ctxrd => acceptCtxrd
  | .ctxwr v => acceptCtxwr v
  | .idle => unitIdle p
  | .uZero => unitZero
  | .uXorin => unitXorin
  | .uB2l => unitB2l
  | .uTheta => unitTheta
  | .uRhopi => unitRhopi
  | .uChi => unitChi
  | .uIota => unitIota
  | .uL2b => unitL2b
  | .uPad => unitPad
  | .uExtract => unitExtract
  | .uNewblk => unitNewblk
  | .uCtxout => unitCtxout
  | .uCtxin => unitCtxin

/-- What one step does to the instance whose turn it is, before the host moves. -/
def engineStep (p : FullBlockFinal) (e : Engine) : Engine :=
  match e.fetch with
  | .hardReset => e.hardReset
  | .illegal => e.acceptIllegal
  | .run i => unitOf p i e

theorem exec_eq (i : Instr) (s : State) : exec i s = .next (s.onSelf (unitOf s.fullBlock i)) := by
  cases i <;> rfl

theorem step_eq (s : State) : step s = .next (s.onSelf (engineStep s.fullBlock)).after := by
  unfold step engineStep State.onSelf
  split
  next h => simp only [h]
  next h => simp only [h]
  next i h => simp only [h, exec_eq]; rfl

/-- An acceptance ends in one of four ways, in this order of checks (60_exceptions.md R187). -/
theorem accept_cases (nb : Bool) (chk : Engine → Option Cause) (start : Engine → Engine) (e : Engine) :
    (e.FAULT = true ∧ e.accept nb chk start = e.take.respond) ∨
    (e.FAULT = false ∧ nb = true ∧ e.BOUND = false ∧ e.accept nb chk start = e.take.takeFault .unbound) ∨
    (e.FAULT = false ∧ (nb = true → e.BOUND = true) ∧
      ∃ c, chk e.take = some c ∧ e.accept nb chk start = e.take.takeFault c) ∨
    (e.FAULT = false ∧ (nb = true → e.BOUND = true) ∧ chk e.take = none ∧
      e.accept nb chk start = start e.take) := by
  unfold Engine.accept
  cases hf : e.FAULT
  · cases nb <;> cases hb : e.BOUND <;> cases hc : chk e.take <;> simp [hf, hb, hc]
  · simp [hf]

/-- A command that starts: not dead, bound where it must be, and its own check passed. -/
theorem accept_starts {nb : Bool} {chk : Engine → Option Cause} {start : Engine → Engine} {e : Engine}
    (hf : e.FAULT = false) (hb : nb = true → e.BOUND = true) (hc : chk e.take = none) :
    e.accept nb chk start = start e.take := by
  unfold Engine.accept
  cases nb
  · simp [hf, hc]
  · simp [hf, hb rfl, hc]

/-- An illegal word accepted ends dead or in E_ILLEGAL_CMD (60_exceptions.md R181, R189). -/
theorem acceptIllegal_cases (e : Engine) :
    (e.FAULT = true ∧ e.acceptIllegal = e.take.respond) ∨
    (e.FAULT = false ∧ e.acceptIllegal = e.take.takeFault .illegalCmd) := by
  unfold Engine.acceptIllegal
  cases hf : e.FAULT <;> simp [hf]

/-- With FAULT = 0 a response carries what the unit gives it (10_state.md R32). -/
theorem response_of_ok {e : Engine} (h : e.FAULT = false) (d : BitVec 7) (v : BitVec 2) (c : Bytes 200) :
    e.response d v c = ⟨e.status, d, e.DOUT, v, c⟩ := by
  simp [Engine.response, h]

/-- With FAULT = 1 a response carries STATUS alone (10_state.md R32). -/
theorem response_of_fault {e : Engine} (h : e.FAULT = true) (d : BitVec 7) (v : BitVec 2) (c : Bytes 200) :
    e.response d v c = ⟨e.status, 0, zeroBytes 64, 0, zeroBytes 200⟩ := by
  simp [Engine.response, h]

/-- STATUS of an engine that is not busy and has a fault (10_state.md R27, 30_encoding.md R77). -/
theorem status_of_fault {e : Engine} (hf : e.FAULT = true) (hb : e.BUSY = false) :
    e.status = e.CAUSE.code ++ 0x2#3 ++ BitVec.ofBool e.BOUND := by
  unfold Engine.status
  rw [hf, hb]
  cases e.CAUSE <;> cases e.BOUND <;> rfl

/-- STATUS of a bound engine that is not busy and has no fault: 0x01 (30_encoding.md R77). -/
theorem status_of_ok {e : Engine} (hf : e.FAULT = false) (hb : e.BUSY = false) (hd : e.BOUND = true)
    (hc : e.CAUSE = .none) : e.status = 0x01 := by
  unfold Engine.status
  rw [hf, hb, hd, hc]
  rfl

/-- Bit 2 of STATUS is FAULT (10_state.md R27). -/
theorem status_faultBit (e : Engine) : e.status.getLsbD 2 = e.FAULT := by
  unfold Engine.status
  cases e.CAUSE <;> cases e.FAULT <;> cases e.BUSY <;> cases e.BOUND <;> rfl

/-- Responding on a bound engine without fault. -/
theorem finish_of_ok {e : Engine} (hf : e.FAULT = false) (hd : e.BOUND = true) (hc : e.CAUSE = .none)
    (d : BitVec 7) (v : BitVec 2) (c : Bytes 200) :
    e.finish d v c = { e with SEQ := Seq.rest, BUSY := false, rsp := some ⟨0x01, d, e.DOUT, v, c⟩ } := by
  have h : e.atRest.response d v c = ⟨0x01, d, e.DOUT, v, c⟩ := by
    rw [response_of_ok (by exact hf), status_of_ok (by exact hf) rfl (by exact hd) (by exact hc)]
    rfl
  unfold Engine.finish
  rw [h]
  rfl

/-- The dead response (60_exceptions.md R189): whatever a unit gives, STATUS alone goes out. -/
theorem finish_of_fault {e : Engine} (hf : e.FAULT = true) (d : BitVec 7) (v : BitVec 2) (c : Bytes 200) :
    e.finish d v c =
      { e with SEQ := Seq.rest, BUSY := false, rsp := some (faultResponse e.CAUSE e.BOUND) } := by
  have h : e.atRest.response d v c = faultResponse e.CAUSE e.BOUND := by
    rw [response_of_fault (by exact hf), status_of_fault (by exact hf) rfl]
    rfl
  unfold Engine.finish
  rw [h]
  rfl

/-- Fault entry (60_exceptions.md R184), everything it does. -/
theorem takeFault_eq (c : Cause) (e : Engine) :
    e.takeFault c =
      { e with FAULT := true, CAUSE := c, DOUT := zeroBytes 64, SEQ := Seq.rest, BUSY := false,
               rsp := some (faultResponse c e.BOUND) } := by
  unfold Engine.takeFault Engine.respond
  rw [finish_of_fault rfl]

/-- FINAL's checks pass exactly when the command runs (42_pad_final.md R110, R111). -/
theorem finalCheck_eq_none {p : FullBlockFinal} {len : Nat} {e : Engine} :
    finalCheck p len e = none ↔ len < e.VSEL.rate ∨ (len = e.VSEL.rate ∧ p = .extraBlock) := by
  have hr := e.VSEL.rate_pos
  unfold finalCheck npad
  by_cases h1 : e.VSEL.rate < len
  · simp only [if_pos h1, reduceCtorEq, false_iff]
    omega
  · rw [if_neg h1]
    by_cases h2 : len = e.VSEL.rate
    · cases p
      · simp only [h2, and_self, if_true]
        rw [if_neg (by omega)]
        simp
      · simp only [h2, reduceCtorEq, and_false, if_false]
        rw [if_pos (by omega)]
        simp
    · have h3 : ¬ (len = e.VSEL.rate ∧ p = .extraBlock) := fun h => h2 h.1
      simp only [if_neg h3]
      rw [if_neg (by omega)]
      simp only [true_iff]
      omega

/-- With no `rst`, the unit PHASE names fires (45_sequencer.md R160). -/
theorem fetch_of_phase {e : Engine} (hr : e.rst = false) (hp : e.SEQ.PHASE ≠ .idle) :
    e.fetch = .run e.SEQ.PHASE.instr := by
  unfold Engine.fetch
  rw [hr]
  cases h : e.SEQ.PHASE <;> simp_all

/-- From IDLE a command is accepted (45_sequencer.md R162). -/
theorem fetch_of_idle {e : Engine} (hr : e.rst = false) (hp : e.SEQ.PHASE = .idle) : e.fetch = e.fetchIdle := by
  unfold Engine.fetch
  rw [hr, hp]
  rfl

/-- What a step does from IDLE: a legal word, an illegal word, or nothing to accept (45_sequencer.md R162). -/
theorem fetch_cases {e : Engine} (hr : e.rst = false) (hp : e.SEQ.PHASE = .idle) :
    (e.cmdValid = true ∧ e.BUSY = false ∧ ∃ i, decodeCommand e.cmd = .ok i ∧ e.fetch = .run i) ∨
    (e.cmdValid = true ∧ e.BUSY = false ∧ ∃ b, decodeCommand e.cmd = .error b ∧ e.fetch = .illegal) ∨
    (¬ (e.cmdValid = true ∧ e.BUSY = false) ∧ e.fetch = .run .idle) := by
  rw [fetch_of_idle hr hp]
  unfold Engine.fetchIdle Engine.offered Engine.cmdReady
  cases e.cmdValid <;> cases e.BUSY <;> cases decodeCommand e.cmd <;> simp

theorem fetch_of_rst {e : Engine} (hr : e.rst = true) : e.fetch = .hardReset := by
  unfold Engine.fetch
  rw [hr]
  rfl

/-- A host that will not assert `rst` does not do so by moving. -/
theorem undisturbed_hostMoves {e : Engine} (h : e.Undisturbed) : e.hostMoves.Undisturbed := by
  obtain ⟨hr, hh⟩ := h
  unfold Engine.hostMoves
  split
  · exact ⟨hr, hh⟩
  · split
    · exact ⟨hr, hh⟩
    next heq => exact ⟨hr, fun m => hh (by rw [heq]; exact List.mem_cons_of_mem _ m)⟩
    next heq => exact absurd (by rw [heq]; exact List.mem_cons_self) hh
    next heq => exact ⟨hr, fun m => hh (by rw [heq]; exact List.mem_cons_of_mem _ m)⟩

end Sys2Proof.Machine
end

