-- ==== Sys2Proof/Laws/Run.lean ====
section
/-! SUPPORT. Runs of several steps while the turn stays with one instance: they are the iterates of one function of that instance. -/

namespace Sys2Proof.Machine

/-- One step of the instance whose turn it is, the host's move on its ports included. -/
def engineTurn (p : FullBlockFinal) (e : Engine) : Engine := (engineStep p e).hostMoves

theorem step_of_nil {s : State} (h : s.turns = []) : step s = .next (s.onSelf (engineTurn s.fullBlock)) := by
  rw [step_eq, State.after_of_nil (by exact h)]
  rfl

theorem run_zero (s : State) : core.run 0 s = .next s := rfl

theorem run_unfold (M : Host.Core) (k : Nat) (s : M.State) :
    M.run (k + 1) s =
      (match M.step s with | .next t => M.run k t | .fault r => .fault r | .refused r => .refused r) := rfl

theorem run_succ {s t : State} (k : Nat) (h : step s = .next t) : core.run (k + 1) s = core.run k t := by
  refine (run_unfold core k s).trans ?_
  have e : core.step s = .next t := h
  rw [e]

/-- With no turn named, k steps are k turns of the one instance. -/
theorem run_of_nil (k : Nat) {s : State} (h : s.turns = []) :
    core.run k s = .next (s.onSelf (engineTurn s.fullBlock)^[k]) := by
  induction k generalizing s with
  | zero => rfl
  | succ k ih =>
    rw [run_succ k (step_of_nil h), ih (by exact h)]
    rfl

/-- A step in the middle of a command fires the unit PHASE names (45_sequencer.md R160). -/
theorem engineTurn_of_phase {p : FullBlockFinal} {e : Engine} (hr : e.rst = false) (hp : e.SEQ.PHASE ≠ .idle) :
    engineTurn p e = (unitOf p e.SEQ.PHASE.instr e).hostMoves := by
  unfold engineTurn engineStep
  rw [fetch_of_phase hr hp]

end Sys2Proof.Machine
end

