-- ==== Sys2Proof/Laws/Datapath.lean ====
section
/-! SUPPORT. One lemma per function of the data path: what each lane or byte of its result is. No proof about the data path unfolds a
vector again. -/

namespace Sys2Proof.Machine

/-! ### Lanes (43_permutation.md) -/

/-- `A[x,y]` at position 5*y + x (R130). -/
theorem lane_of_lt (a : Lanes) {x y : Nat} (hx : x < 5) (hy : y < 5) : lane a x y = a[5 * y + x] := by
  simp only [lane, Nat.mod_eq_of_lt hx, Nat.mod_eq_of_lt hy]

/-- Coordinates are taken mod 5 (R130). -/
theorem lane_mod (a : Lanes) (x y : Nat) : lane a (x % 5) y = lane a x y := by
  simp only [lane, Nat.mod_mod]

/-- The parity of column x (R131). -/
theorem thetaC_of_lt (a : Lanes) {x : Nat} (hx : x < 5) :
    thetaC a x = a[x] ^^^ a[x + 5] ^^^ a[x + 10] ^^^ a[x + 15] ^^^ a[x + 20] := by
  simp only [thetaC, lane, Nat.mod_eq_of_lt hx, Nat.zero_mod, Nat.mul_zero, Nat.zero_add, Nat.add_comm x]

theorem thetaC_mod (a : Lanes) (x : Nat) : thetaC a (x % 5) = thetaC a x := by
  simp only [thetaC, lane_mod]

/-- Theta, lane by lane (R131). -/
theorem theta_getElem (a : Lanes) {i : Nat} (h : i < 25) :
    (theta a)[i] = a[i] ^^^ (thetaC a ((i % 5 + 4) % 5) ^^^ rotl64 (thetaC a ((i % 5 + 1) % 5)) 1) := by
  simp only [theta, Vector.getElem_ofFn, thetaD, thetaC_mod, Fin.getElem_fin]

/-- RhoPi, lane by lane (R133). -/
theorem rhoPi_getElem (a : Lanes) {j : Nat} (h : j < 25) :
    (rhoPi a)[j] = rotl64 a[PISRC[j]] ROT[PISRC[j]] := by
  simp only [rhoPi, Vector.getElem_ofFn, Fin.getElem_fin]

/-- Chi, lane by lane (R135). -/
theorem chi_getElem (a : Lanes) {x y : Nat} (hx : x < 5) (hy : y < 5) :
    (chi a)[5 * y + x] = a[5 * y + x] ^^^ (~~~ a[5 * y + (x + 1) % 5] &&& a[5 * y + (x + 2) % 5]) := by
  have h1 : (5 * y + x) % 5 = x := by omega
  have h2 : (5 * y + x) / 5 = y := by omega
  simp only [chi, Vector.getElem_ofFn, Fin.getElem_fin, h1, h2, lane, Nat.mod_eq_of_lt hy]

/-- Iota, lane by lane (R136). -/
theorem iota_getElem (a : Lanes) (ir : Fin 24) {i : Nat} (h : i < 25) :
    (iota a ir)[i] = if i = 0 then a[0] ^^^ RC[ir] else a[i] := by
  simp only [iota, Vector.getElem_set, eq_comm (a := 0)]

/-- KeccakF is the 24 rounds in order (R139). -/
theorem keccakF_eq (a : Lanes) : keccakF a = (List.finRange 24).foldl round a := rfl

/-! ### The transcoder (44_transcoder.md) -/

/-- B2L, lane by lane (R150). -/
theorem b2l_getElem (s : Bytes 200) {i : Nat} (h : i < 25) : (b2l s)[i] = memRead8 s (8 * i) (by omega) := by
  simp only [b2l, Vector.getElem_ofFn]

/-- L2B, byte by byte (R151). -/
theorem l2b_getElem (a : Lanes) {k : Nat} (h : k < 200) : (l2b a)[k] = laneByte a[k / 8] (k % 8) := by
  simp only [l2b, Vector.getElem_ofFn]

/-- A little-endian read, bit by bit (20_memory.md R51, R52). -/
theorem memRead8_getLsbD (s : Bytes 200) (k : Nat) (h : k + 8 ≤ 200) {z : Nat} (hz : z < 64) :
    (memRead8 s k h).getLsbD z = (s[k + z / 8]'(by omega)).getLsbD (z % 8) := by
  have hq : z / 8 < 8 := by omega
  simp only [memRead8, BitVec.getLsbD_or, BitVec.getLsbD_shiftLeft, BitVec.getLsbD_setWidth]
  obtain ⟨q, r, hr, rfl⟩ : ∃ q r, r < 8 ∧ z = 8 * q + r := ⟨z / 8, z % 8, by omega, by omega⟩
  have h1 : (8 * q + r) / 8 = q := by omega
  have h2 : (8 * q + r) % 8 = r := by omega
  simp only [h1, h2] at hq ⊢
  interval_cases q <;> interval_cases r <;> simp

/-- ORing a byte in above what is there adds it at its weight. -/
theorem toNat_or_shifted (b : Byte) (n : Nat) (w : Lane) (hw : w.toNat < 2 ^ n) (hn : n + 8 ≤ 64) :
    (w ||| b.setWidth 64 <<< n).toNat = w.toNat + b.toNat * 2 ^ n ∧ (w ||| b.setWidth 64 <<< n).toNat < 2 ^ (n + 8) := by
  have hb := b.isLt
  have hm : b.toNat * 2 ^ n < 2 ^ (n + 8) := by
    rw [pow_add, mul_comm]
    exact Nat.mul_lt_mul_of_pos_left hb (by positivity)
  have h64 : 2 ^ (n + 8) ≤ 2 ^ 64 := Nat.pow_le_pow_right (by norm_num) hn
  have e : (w ||| b.setWidth 64 <<< n).toNat = w.toNat + b.toNat * 2 ^ n := by
    rw [BitVec.toNat_or, BitVec.toNat_shiftLeft, BitVec.toNat_setWidth, Nat.shiftLeft_eq,
      Nat.mod_eq_of_lt (by omega : b.toNat < 2 ^ 64), Nat.mod_eq_of_lt (by omega),
      Nat.or_comm, mul_comm, ← Nat.two_pow_add_eq_or_of_lt hw, mul_comm, Nat.add_comm]
  refine ⟨e, ?_⟩
  rw [e, pow_add]
  have : b.toNat * 2 ^ n ≤ 255 * 2 ^ n := Nat.mul_le_mul_right _ (by omega)
  omega

/-- A byte of a lane, bit by bit (20_memory.md R51). -/
theorem laneByte_getLsbD (v : Lane) (j : Nat) {b : Nat} (hb : b < 8) :
    (laneByte v j).getLsbD b = v.getLsbD (8 * j + b) := by
  simp [laneByte, hb]

/-! ### Absorbing and padding (41_absorb.md, 42_pad_final.md) -/

/-- XorIn in the rate region (41_absorb.md R101). -/
theorem xorIn_of_lt (v : Variant) (s : Bytes 200) (b : Bytes 144) {k : Nat} (h : k < 144) (hk : k < v.rate) :
    (xorIn v s b)[k] = s[k] ^^^ b[k] := by
  simp [xorIn, hk]

/-- XorIn in the capacity region (41_absorb.md R101, R103). -/
theorem xorIn_of_ge (v : Variant) (s : Bytes 200) (b : Bytes 144) {k : Nat} (h : k < 200) (hk : v.rate ≤ k) :
    (xorIn v s b)[k] = s[k] := by
  have : ¬ k < v.rate := by omega
  simp [xorIn, this]

/-- U_PAD's step 1, byte by byte (42_pad_final.md R113). -/
theorem padZero_getElem (r L : Nat) (b : Bytes 144) {k : Nat} (h : k < 144) :
    (padZero r L b)[k] = if L ≤ k ∧ k < r then 0 else b[k] := by
  simp [padZero]

/-- U_PAD's steps 2 and 3, byte by byte (42_pad_final.md R113). -/
theorem orByte_getElem (i : Nat) (x : Byte) (b : Bytes 144) {k : Nat} (h : k < 144) :
    (orByte i x b)[k] = if k = i then b[k] ||| x else b[k] := by
  simp [orByte]

/-- The digest register, byte by byte (42_pad_final.md R115). -/
theorem extract_getElem (v : Variant) (s : Bytes 200) {k : Nat} (h : k < 64) :
    (extract v s)[k] = if k < v.dlen then s[k] else 0 := by
  simp [extract]

end Sys2Proof.Machine
end

