-- ==== Sys2Proof/Laws/Units.lean ====
section
/-! SUPPORT. What each step unit does to its instance, in one equation: the registers it writes, the next phase, the response. A proof
about a unit rewrites with these instead of unfolding it. -/

namespace Sys2Proof.Machine

theorem unitXorin_eq (e : Engine) :
    unitXorin e = { e with S := xorIn e.VSEL e.S e.BLK, SEQ := { e.SEQ with PHASE := .uB2l }, rsp := none } := rfl

theorem unitB2l_eq (e : Engine) :
    unitB2l e = { e with A := b2l e.S, SEQ := { e.SEQ with RND := 0, PHASE := .uTheta }, rsp := none } := by
  unfold unitB2l Engine.goTo Engine.setRnd
  rfl

theorem unitTheta_eq (e : Engine) :
    unitTheta e = { e with A := theta e.A, SEQ := { e.SEQ with PHASE := .uRhopi }, rsp := none } := by
  unfold unitTheta Engine.goTo
  rfl

theorem unitRhopi_eq (e : Engine) :
    unitRhopi e = { e with A := rhoPi e.A, SEQ := { e.SEQ with PHASE := .uChi }, rsp := none } := by
  unfold unitRhopi Engine.goTo
  rfl

theorem unitChi_eq (e : Engine) :
    unitChi e = { e with A := chi e.A, SEQ := { e.SEQ with PHASE := .uIota }, rsp := none } := by
  unfold unitChi Engine.goTo
  rfl

/-- A round that is not the last. -/
theorem unitIota_of_lt {e : Engine} (h : e.SEQ.RND.val < 23) :
    unitIota e = { e with A := iota e.A e.SEQ.RND,
                          SEQ := { e.SEQ with RND := ⟨e.SEQ.RND.val + 1, by omega⟩, PHASE := .uTheta }, rsp := none } := by
  unfold unitIota Engine.nextRound Engine.goTo Engine.setRnd
  rw [dif_pos (by exact h)]

/-- The last round. -/
theorem unitIota_of_eq {e : Engine} (h : ¬ e.SEQ.RND.val < 23) :
    unitIota e = { e with A := iota e.A e.SEQ.RND, SEQ := { e.SEQ with RND := 0, PHASE := .uL2b }, rsp := none } := by
  unfold unitIota Engine.nextRound Engine.goTo Engine.setRnd
  rw [dif_neg (by exact h)]

/-- The end of an ABSORB. -/
theorem unitL2b_absorb {e : Engine} (h : e.SEQ.OPC = .absorb) : unitL2b e = ({ e with S := l2b e.A }).respond := by
  unfold unitL2b Engine.afterAbsorb
  simp only [h]

/-- The end of the first pass of a FINAL. -/
theorem unitL2b_first {e : Engine} (h : e.SEQ.OPC = .final) (hp : e.SEQ.PASS = false) :
    unitL2b e = { e with S := l2b e.A, SEQ := { e.SEQ with PHASE := .uNewblk }, rsp := none } := by
  unfold unitL2b Engine.afterAbsorb
  simp only [h, hp, Engine.goTo]

/-- The end of the last absorb of a FINAL. -/
theorem unitL2b_last {e : Engine} (h : e.SEQ.OPC = .final) (hp : e.SEQ.PASS = true) :
    unitL2b e = { e with S := l2b e.A, SEQ := { e.SEQ with PHASE := .uExtract }, rsp := none } := by
  unfold unitL2b Engine.afterAbsorb
  simp only [h, hp, Engine.goTo]

/-- Whatever OPC and PASS are, U_L2B writes S, SEQ and BUSY and may respond. -/
theorem unitL2b_frame (e : Engine) :
    unitL2b e = { e with S := l2b e.A, SEQ := (unitL2b e).SEQ, BUSY := (unitL2b e).BUSY, rsp := (unitL2b e).rsp } := by
  unfold unitL2b Engine.afterAbsorb Engine.goToStray
  dsimp only
  repeat' split
  all_goals rfl

/-- U_PAD in its domain (42_pad_final.md R113). -/
theorem unitPad_of_lt {e : Engine} (h : e.LEN.toNat < e.VSEL.rate) :
    unitPad e = { e with BLK := padSteps e.VSEL e.BLK e.LEN.toNat, SEQ := { e.SEQ with PHASE := .uXorin }, rsp := none } := by
  unfold unitPad
  rw [if_pos h]
  rfl

theorem unitNewblk_eq (e : Engine) :
    unitNewblk e = { e with LEN := 0, SEQ := { e.SEQ with PASS := true, PHASE := .uPad }, rsp := none } := rfl

theorem unitExtract_eq (e : Engine) :
    unitExtract e = ({ e with DOUT := extract e.VSEL e.S }).finish (BitVec.ofNat 7 e.VSEL.dlen) 0 (zeroBytes 200) := rfl

theorem unitZero_eq (e : Engine) :
    unitZero e = ({ e with S := zeroBytes 200, DOUT := zeroBytes 64 }).respond := rfl

theorem unitCtxin_eq (e : Engine) :
    unitCtxin e = ({ e with S := e.CTX, DOUT := zeroBytes 64 }).respond := rfl

theorem unitCtxout_eq (e : Engine) : unitCtxout e = e.finish 0 e.VSEL.code e.S := rfl

/-- Responding, in one record. -/
theorem finish_eq (e : Engine) (d : BitVec 7) (v : BitVec 2) (c : Bytes 200) :
    e.finish d v c = { e with SEQ := Seq.rest, BUSY := false, rsp := some (e.atRest.response d v c) } := rfl

theorem respond_eq (e : Engine) :
    e.respond = { e with SEQ := Seq.rest, BUSY := false, rsp := some (e.atRest.response 0 0 (zeroBytes 200)) } := rfl

/-- With no digest on DOUT, a response without context carries STATUS alone whether or not FAULT stands. -/
theorem response_of_zero {e : Engine} (h : e.DOUT = zeroBytes 64) :
    e.response 0 0 (zeroBytes 200) = ⟨e.status, 0, zeroBytes 64, 0, zeroBytes 200⟩ := by
  unfold Engine.response
  split
  · rfl
  · rw [h]

end Sys2Proof.Machine
end

