-- ==== Sys2Proof/Laws/Absorbing.lean ====
section
/-! SUPPORT. The absorb programme as a run: four turns are a round, 98 turns take a block from U_XORIN to the U_L2B that ends it
(45_sequencer.md R165), with everything but the scratch kept and whatever the host puts on the ports meanwhile. -/

namespace Sys2Proof.Machine

/-- What the units of an absorb keep: the architectural registers but S, and what command is running. -/
structure Keeps (e f : Engine) : Prop where
  undisturbed : f.Undisturbed
  bound : f.BOUND = e.BOUND
  fault : f.FAULT = e.FAULT
  cause : f.CAUSE = e.CAUSE
  vsel : f.VSEL = e.VSEL
  busy : f.BUSY = e.BUSY
  dout : f.DOUT = e.DOUT
  opc : f.SEQ.OPC = e.SEQ.OPC
  pass : f.SEQ.PASS = e.SEQ.PASS

theorem Keeps.trans {e f g : Engine} (h : Keeps e f) (k : Keeps f g) : Keeps e g :=
  ⟨k.undisturbed, k.bound.trans h.bound, k.fault.trans h.fault, k.cause.trans h.cause, k.vsel.trans h.vsel,
    k.busy.trans h.busy, k.dout.trans h.dout, k.opc.trans h.opc, k.pass.trans h.pass⟩

/-- The rounds r, r+1, .., 23. -/
def roundsFrom (r : Nat) (a : Lanes) : Lanes := ((List.finRange 24).drop r).foldl round a

theorem roundsFrom_succ (r : Fin 24) (a : Lanes) : roundsFrom r.val a = roundsFrom (r.val + 1) (round a r) := by
  have : (List.finRange 24).drop r.val = r :: (List.finRange 24).drop (r.val + 1) := by
    rw [List.drop_eq_getElem_cons (by simp)]
    simp
  unfold roundsFrom
  rw [this, List.foldl_cons]

theorem roundsFrom_zero (a : Lanes) : roundsFrom ((0 : Fin 24) : Nat) a = keccakF a := by
  unfold roundsFrom keccakF roundOrder
  rw [Fin.val_zero, List.drop_zero]

theorem unitOf_phase {p : FullBlockFinal} {e g : Engine} {ph : Phase} (hp : e.SEQ.PHASE = ph)
    (h : unitOf p ph.instr e = g) : unitOf p e.SEQ.PHASE.instr e = g := by
  rw [hp]
  exact h

/-- A turn in which a unit fires that keeps what `Keeps` says; the host's move touches none of it. -/
theorem turn_keeps {p : FullBlockFinal} {e g : Engine} (hu : e.Undisturbed) (hp : e.SEQ.PHASE ≠ .idle)
    (hg : unitOf p e.SEQ.PHASE.instr e = g) (hr : g.rst = e.rst) (hh : g.host = e.host) (hb : g.BOUND = e.BOUND)
    (hf : g.FAULT = e.FAULT) (hc : g.CAUSE = e.CAUSE) (hv : g.VSEL = e.VSEL) (hz : g.BUSY = e.BUSY)
    (hd : g.DOUT = e.DOUT) (ho : g.SEQ.OPC = e.SEQ.OPC) (hq : g.SEQ.PASS = e.SEQ.PASS) :
    Keeps e (engineTurn p e) ∧ (engineTurn p e).SEQ = g.SEQ ∧ (engineTurn p e).A = g.A ∧
      (engineTurn p e).S = g.S ∧ (engineTurn p e).BLK = g.BLK ∧ (engineTurn p e).LEN = g.LEN := by
  have hg' : g.Undisturbed := by
    unfold Engine.Undisturbed at *
    rw [hr, hh]
    exact hu
  rw [engineTurn_of_phase hu.1 hp, hg]
  simp only [Engine.hostMoves_SEQ, Engine.hostMoves_A, Engine.hostMoves_S, Engine.hostMoves_BLK, Engine.hostMoves_LEN,
    and_self, and_true]
  constructor <;> try simp only [Engine.hostMoves_SEQ, Engine.hostMoves_BOUND, Engine.hostMoves_BUSY,
    Engine.hostMoves_FAULT, Engine.hostMoves_CAUSE, Engine.hostMoves_VSEL, Engine.hostMoves_DOUT]
  all_goals first | assumption | exact undisturbed_hostMoves hg'

/-- Four turns are one round (90_conflicts.md C3). -/
theorem turns_of_round {p : FullBlockFinal} {e : Engine} (hu : e.Undisturbed) (hp : e.SEQ.PHASE = .uTheta) :
    ∃ f, (engineTurn p)^[4] e = f ∧ Keeps e f ∧ f.A = round e.A e.SEQ.RND ∧ f.S = e.S ∧ f.LEN = e.LEN ∧ f.BLK = e.BLK ∧
      ((e.SEQ.RND.val < 23 ∧ f.SEQ.PHASE = .uTheta ∧ f.SEQ.RND.val = e.SEQ.RND.val + 1) ∨
       (¬ e.SEQ.RND.val < 23 ∧ f.SEQ.PHASE = .uL2b ∧ f.SEQ.RND = 0)) := by
  have hi := unitOf_phase (p := p) hp (unitTheta_eq e)
  obtain ⟨k1, q1, a1, s1, b1, l1⟩ := turn_keeps hu (by rw [hp]; decide) hi rfl rfl rfl rfl rfl rfl rfl rfl rfl rfl
  generalize he1 : engineTurn p e = e1 at *
  have hp1 : e1.SEQ.PHASE = .uRhopi := by rw [q1]
  have hi1 := unitOf_phase (p := p) hp1 (unitRhopi_eq e1)
  obtain ⟨k2, q2, a2, s2, b2, l2⟩ := turn_keeps k1.undisturbed (by rw [hp1]; decide) hi1 rfl rfl rfl rfl rfl rfl rfl rfl rfl rfl
  generalize he2 : engineTurn p e1 = e2 at *
  have hp2 : e2.SEQ.PHASE = .uChi := by rw [q2]
  have hi2 := unitOf_phase (p := p) hp2 (unitChi_eq e2)
  obtain ⟨k3, q3, a3, s3, b3, l3⟩ := turn_keeps k2.undisturbed (by rw [hp2]; decide) hi2 rfl rfl rfl rfl rfl rfl rfl rfl rfl rfl
  generalize he3 : engineTurn p e2 = e3 at *
  have hp3 : e3.SEQ.PHASE = .uIota := by rw [q3]
  have hr3 : e3.SEQ.RND = e.SEQ.RND := by rw [q3, q2, q1]
  have hit : (engineTurn p)^[4] e = engineTurn p e3 := by
    rw [← he3, ← he2, ← he1]; rfl
  have ha : iota e3.A e3.SEQ.RND = round e.A e.SEQ.RND := by rw [hr3, a3, a2, a1]; rfl
  have k123 := (k1.trans k2).trans k3
  rw [hit]
  by_cases hlt : e3.SEQ.RND.val < 23
  · have hi3 := unitOf_phase (p := p) hp3 (unitIota_of_lt hlt)
    obtain ⟨k4, q4, a4, s4, b4, l4⟩ := turn_keeps k3.undisturbed (by rw [hp3]; decide) hi3 rfl rfl rfl rfl rfl rfl rfl rfl rfl rfl
    refine ⟨_, rfl, k123.trans k4, a4.trans ha, ?_, ?_, ?_, Or.inl ⟨by rw [← hr3]; exact hlt, ?_, ?_⟩⟩
    · rw [s4, s3, s2, s1]
    · rw [l4, l3, l2, l1]
    · rw [b4, b3, b2, b1]
    · rw [q4]
    · rw [q4, ← hr3]
  · have hi3 := unitOf_phase (p := p) hp3 (unitIota_of_eq hlt)
    obtain ⟨k4, q4, a4, s4, b4, l4⟩ := turn_keeps k3.undisturbed (by rw [hp3]; decide) hi3 rfl rfl rfl rfl rfl rfl rfl rfl rfl rfl
    refine ⟨_, rfl, k123.trans k4, a4.trans ha, ?_, ?_, ?_, Or.inr ⟨by rw [← hr3]; exact hlt, ?_, ?_⟩⟩
    · rw [s4, s3, s2, s1]
    · rw [l4, l3, l2, l1]
    · rw [b4, b3, b2, b1]
    · rw [q4]
    · rw [q4]

/-- From U_THETA of some round to the U_L2B after the last. -/
theorem turns_of_rounds {p : FullBlockFinal} (n : Nat) : ∀ (e : Engine), e.Undisturbed → e.SEQ.PHASE = .uTheta → e.SEQ.RND.val + n + 1 = 24 →
    ∃ f, (engineTurn p)^[4 * (n + 1)] e = f ∧ Keeps e f ∧ f.SEQ.PHASE = .uL2b ∧ f.SEQ.RND = 0 ∧
      f.A = roundsFrom e.SEQ.RND.val e.A ∧ f.S = e.S ∧ f.LEN = e.LEN ∧ f.BLK = e.BLK := by
  induction n with
  | zero =>
    intro e hu hp hn
    obtain ⟨f, h1, h2, h3, h4, h5, h6, ⟨h7, _⟩ | ⟨h7, h8, h9⟩⟩ := turns_of_round (p := p) hu hp
    · omega
    · refine ⟨f, h1, h2, h8, h9, ?_, h4, h5, h6⟩
      rw [roundsFrom_succ, h3]
      have : e.SEQ.RND.val + 1 = 24 := by omega
      rw [this]; rfl
  | succ n ih =>
    intro e hu hp hn
    obtain ⟨f, h1, h2, h3, h4, h5, h6, ⟨h7, h8, h9⟩ | ⟨h7, _⟩⟩ := turns_of_round (p := p) hu hp
    · obtain ⟨g, i1, i2, i3, i4, i5, i6, i7, i8⟩ := ih f h2.undisturbed h8 (by omega)
      refine ⟨g, ?_, h2.trans i2, i3, i4, ?_, i6.trans h4, i7.trans h5, i8.trans h6⟩
      · rw [show 4 * (n + 1 + 1) = 4 * (n+1) + 4 from by ring, Function.iterate_add_apply, h1, i1]
      · rw [i5, h9, roundsFrom_succ, h3]
    · omega

/-- From U_XORIN to U_L2B: 98 turns, with AbsorbF waiting in the lanes (41_absorb.md R102). -/
theorem turns_to_l2b {p : FullBlockFinal} {e : Engine} (hu : e.Undisturbed) (hp : e.SEQ.PHASE = .uXorin) :
    ∃ f, (engineTurn p)^[98] e = f ∧ Keeps e f ∧ f.SEQ.PHASE = .uL2b ∧ f.SEQ.RND = 0 ∧
      l2b f.A = absorbF e.VSEL e.S e.BLK ∧ f.LEN = e.LEN := by
  have hi := unitOf_phase (p := p) hp (unitXorin_eq e)
  obtain ⟨k1, q1, a1, s1, b1, l1⟩ := turn_keeps hu (by rw [hp]; decide) hi rfl rfl rfl rfl rfl rfl rfl rfl rfl rfl
  generalize he1 : engineTurn p e = e1 at *
  have hp1 : e1.SEQ.PHASE = .uB2l := by rw [q1]
  have hi1 := unitOf_phase (p := p) hp1 (unitB2l_eq e1)
  obtain ⟨k2, q2, a2, s2, b2, l2⟩ := turn_keeps k1.undisturbed (by rw [hp1]; decide) hi1 rfl rfl rfl rfl rfl rfl rfl rfl rfl rfl
  generalize he2 : engineTurn p e1 = e2 at *
  obtain ⟨g, i1, i2, i3, i4, i5, i6, i7, i8⟩ := turns_of_rounds (p := p) 23 e2 k2.undisturbed (by rw [q2]) (by rw [q2]; rfl)
  refine ⟨g, ?_, (k1.trans k2).trans i2, i3, i4, ?_, ?_⟩
  · rw [show 98 = 4 * (23+1) + 1 + 1 from rfl, Function.iterate_add_apply, Function.iterate_one, he1, Function.iterate_add_apply, Function.iterate_one, he2, i1]
  · rw [i5, q2, a2, s1]; unfold absorbF keccakP; simp only [roundsFrom_zero]
  · rw [i7, l2, l1]

end Sys2Proof.Machine
end

