-- ==== Sys2Proof/Laws/Decode.lean ====
section
/-! SUPPORT. The fields of a command word: a word is its four fields in order, and putting fields together gives each back; a word
decodes to a command. -/

namespace Sys2Proof

/-- A bit of a word put together from its fields (30_encoding.md R70). -/
theorem word_bit (o : BitVec 4) (v r : BitVec 2) (l : BitVec 8) (i : Nat) :
    BitVec.getLsbD (w := 16) (o ++ v ++ r ++ l) i =
      if i < 8 then l.getLsbD i else if i < 10 then r.getLsbD (i - 8) else if i < 12 then v.getLsbD (i - 10)
      else o.getLsbD (i - 12) := by
  change BitVec.getLsbD (w := 4 + 2 + 2 + 8) _ _ = _
  simp only [BitVec.getLsbD_append]
  split
  · simp [*]
  · have h1 : i - 8 < 2 ↔ i < 10 := by omega
    have h2 : i - 8 - 2 = i - 10 := by omega
    have h3 : i - 10 < 2 ↔ i < 12 := by omega
    have h4 : i - 10 - 2 = i - 12 := by omega
    simp [*]

/-- A word is its fields in order (30_encoding.md R70). -/
theorem cmd_fields (w : CmdWord) : opcField w ++ vselField w ++ rsvField w ++ lenField w = w := by
  apply BitVec.eq_of_getLsbD_eq
  intro i hi
  have hi : i < 16 := hi
  refine (word_bit _ _ _ _ i).trans ?_
  simp only [opcField, vselField, rsvField, lenField, BitVec.getLsbD_extractLsb']
  interval_cases i <;> simp

theorem opcField_append (o : BitVec 4) (v r : BitVec 2) (l : BitVec 8) :
    opcField (o ++ v ++ r ++ l) = o := by
  apply BitVec.eq_of_getLsbD_eq
  intro i hi
  simp only [opcField, BitVec.getLsbD_extractLsb', word_bit]
  interval_cases i <;> simp

theorem vselField_append (o : BitVec 4) (v r : BitVec 2) (l : BitVec 8) :
    vselField (o ++ v ++ r ++ l) = v := by
  apply BitVec.eq_of_getLsbD_eq
  intro i hi
  simp only [vselField, BitVec.getLsbD_extractLsb', word_bit]
  interval_cases i <;> simp

theorem rsvField_append (o : BitVec 4) (v r : BitVec 2) (l : BitVec 8) :
    rsvField (o ++ v ++ r ++ l) = r := by
  apply BitVec.eq_of_getLsbD_eq
  intro i hi
  simp only [rsvField, BitVec.getLsbD_extractLsb', word_bit]
  interval_cases i <;> simp

theorem lenField_append (o : BitVec 4) (v r : BitVec 2) (l : BitVec 8) :
    lenField (o ++ v ++ r ++ l) = l := by
  apply BitVec.eq_of_getLsbD_eq
  intro i hi
  simp only [lenField, BitVec.getLsbD_extractLsb', word_bit]
  interval_cases i <;> simp

/-- The variant of a code and the code of a variant (30_encoding.md R72). -/
theorem Variant.ofCode_code (v : Variant) : Variant.ofCode v.code = v := by cases v <;> rfl

theorem Variant.code_ofCode (c : BitVec 2) : (Variant.ofCode c).code = c := by revert c; decide

/-- A word decodes to a command, never to a phase (30_encoding.md R71). -/
theorem decodeCommand_is_command {w : CmdWord} {i : Instr} (h : decodeCommand w = .ok i) :
    (∃ v, i = .init v) ∨ i = .reset ∨ (∃ n, i = .absorb n) ∨ (∃ n, i = .final n) ∨ i = .ctxrd ∨ ∃ v, i = .ctxwr v := by
  simp only [decodeCommand, decodeVsel, decodePlain, decodeLen] at h
  repeat' split at h
  all_goals simp at h
  all_goals subst h; simp

/-- The opcode and the operand of the command a word decodes to (30_encoding.md R70, R71). -/
theorem decodeCommand_fields {w : CmdWord} {i : Instr} (h : decodeCommand w = .ok i) :
    (opcField w = 0x1 ∧ i = .init (Variant.ofCode (vselField w))) ∨ (opcField w = 0x2 ∧ i = .reset) ∨
    (opcField w = 0x3 ∧ i = .absorb (lenField w).toNat) ∨ (opcField w = 0x4 ∧ i = .final (lenField w).toNat) ∨
    (opcField w = 0x5 ∧ i = .ctxrd) ∨ (opcField w = 0x6 ∧ i = .ctxwr (Variant.ofCode (vselField w))) := by
  simp only [decodeCommand, decodeVsel, decodePlain, decodeLen] at h
  repeat' split at h
  all_goals simp at h
  all_goals subst h; simp [*]

end Sys2Proof
end

