-- ==== Sys2Proof/Laws/PerInstr.lean ====
section
/-! SUPPORT. Per instruction: its code is its own row of the opcode table (30_encoding.md R71, R76), one lemma per constructor. -/

namespace Sys2Proof.Laws.TableRow

open Sys2Proof

/-- The code of a well-formed instruction matches the row of its own mnemonic and no other; a phase's is that phase's. -/
def Statement (i : Instr) : Prop :=
  WellFormed i = true →
    match encode i with
    | .cmd w => (cmdRows.filter fun r => r.matchesWord w).map CmdRow.mnemonic = [i.mnemonic]
    | .phase c => ∃ p : Phase, p.instr = i ∧ p.code = c

theorem init (v : Variant) : Statement (.init v) := by cases v <;> exact fun _ => rfl

theorem reset : Statement .reset := fun _ => rfl

theorem absorb (len : Nat) : Statement (.absorb len) := by
  intro _
  have h : ∀ l : BitVec 8,
      (cmdRows.filter fun r => r.matchesWord (cmdWord .absorb 0 l)).map CmdRow.mnemonic = ["ABSORB"] := by decide +kernel
  exact h _

theorem final (len : Nat) : Statement (.final len) := by
  intro _
  have h : ∀ l : BitVec 8,
      (cmdRows.filter fun r => r.matchesWord (cmdWord .final 0 l)).map CmdRow.mnemonic = ["FINAL"] := by decide +kernel
  exact h _

theorem ctxrd : Statement .ctxrd := fun _ => rfl

theorem ctxwr (v : Variant) : Statement (.ctxwr v) := by cases v <;> exact fun _ => rfl

theorem idle : Statement .idle := fun _ => ⟨.idle, rfl, rfl⟩

theorem uZero : Statement .uZero := fun _ => ⟨.uZero, rfl, rfl⟩

theorem uXorin : Statement .uXorin := fun _ => ⟨.uXorin, rfl, rfl⟩

theorem uB2l : Statement .uB2l := fun _ => ⟨.uB2l, rfl, rfl⟩

theorem uTheta : Statement .uTheta := fun _ => ⟨.uTheta, rfl, rfl⟩

theorem uRhopi : Statement .uRhopi := fun _ => ⟨.uRhopi, rfl, rfl⟩

theorem uChi : Statement .uChi := fun _ => ⟨.uChi, rfl, rfl⟩

theorem uIota : Statement .uIota := fun _ => ⟨.uIota, rfl, rfl⟩

theorem uL2b : Statement .uL2b := fun _ => ⟨.uL2b, rfl, rfl⟩

theorem uPad : Statement .uPad := fun _ => ⟨.uPad, rfl, rfl⟩

theorem uExtract : Statement .uExtract := fun _ => ⟨.uExtract, rfl, rfl⟩

theorem uNewblk : Statement .uNewblk := fun _ => ⟨.uNewblk, rfl, rfl⟩

theorem uCtxout : Statement .uCtxout := fun _ => ⟨.uCtxout, rfl, rfl⟩

theorem uCtxin : Statement .uCtxin := fun _ => ⟨.uCtxin, rfl, rfl⟩

end Sys2Proof.Laws.TableRow
end

