-- ==== Sys2Proof/Tests/Slice0.lean ====
section
/-! SUPPORT. Tests and witnesses. Expected values are spec/95_test_vectors.md's (named in each comment) or written out from the tables of
30_encoding.md; a theorem `witness_X` shows states and operands that meet the hypotheses of obligation X, one for each clause. -/

namespace Sys2Proof.Tests

-- one kernel evaluation at a time
set_option Elab.async false

open Sys2Proof Sys2Proof.Machine

/-! ## Helpers -/

/-- The reset system with its one instance replaced. -/
def one (e : Engine) : State := { State.reset with self := e }

/-- An instance after INIT v. -/
def ready (v : Variant) : Engine := { Engine.reset with BOUND := true, VSEL := v }

/-- An instance in the middle of a command. -/
def busyAt (v : Variant) (o : Opc) (pass : Bool) (rnd : Fin 24) (p : Phase) : Engine :=
  { ready v with BUSY := true, SEQ := ⟨o, pass, rnd, p⟩ }

/-- A dead instance, bound to v. -/
def dead (v : Variant) (c : Cause) : Engine := { ready v with FAULT := true, CAUSE := c }

/-- That word offered. -/
def offering (w : CmdWord) (e : Engine) : Engine := { e with cmdValid := true, cmd := w }

/-- A view of the instance after an instruction. -/
def afterExec {α : Type} (i : Instr) (s : State) (f : Engine → α) : Option α :=
  match exec i s with
  | .next t => some (f t.self)
  | _ => none

/-- A view of the instance after one step. -/
def afterStep {α : Type} (s : State) (f : Engine → α) : Option α :=
  match step s with
  | .next t => some (f t.self)
  | _ => none

/-- The status byte of the response of a word accepted (95_test_vectors.md section 9). -/
def statusAfter (w : CmdWord) (e : Engine) : Option (Option (BitVec 8)) :=
  afterStep (one (offering w e)) fun f => f.rsp.map Response.status

/-- A[i] = i + 1 (V-T2, V-P2, V-C2). -/
def countLanes : Lanes := Vector.ofFn fun i => BitVec.ofNat 64 (i.val + 1)

/-- S[k] = k (V-X1). -/
def countBytes (n : Nat) : Bytes n := Vector.ofFn fun k => BitVec.ofNat 8 k.val

/-- A single lane set. -/
def laneSet (i : Fin 25) (v : Lane) : Lanes := (Vector.replicate 25 0#64).set i v

/-! ## Well-formedness -/

theorem test_illformed_absorb : WellFormed (.absorb 256) = false := by decide
theorem test_illformed_final : WellFormed (.final 256) = false := by decide
theorem test_wellformed_bounds : WellFormed (.absorb 255) = true ∧ WellFormed (.final 0) = true := by decide

/-! ## Decoding, one word for every constructor (30_encoding.md R71, R76) -/

theorem test_decode_init : decode (.cmd 0b0001_10_00_00000000) = .ok (.init .sha3_384) := by decide
theorem test_decode_reset : decode (.cmd 0b0010_00_00_00000000) = .ok .reset := by decide
theorem test_decode_absorb : decode (.cmd 0b0011_00_00_10010000) = .ok (.absorb 144) := by decide
theorem test_decode_final : decode (.cmd 0b0100_00_00_01100111) = .ok (.final 103) := by decide
theorem test_decode_ctxrd : decode (.cmd 0b0101_00_00_00000000) = .ok .ctxrd := by decide
theorem test_decode_ctxwr : decode (.cmd 0b0110_01_00_00000000) = .ok (.ctxwr .sha3_256) := by decide
theorem test_decode_idle : decode (.phase 0b0000) = .ok .idle := by decide
theorem test_decode_zero : decode (.phase 0b0001) = .ok .uZero := by decide
theorem test_decode_xorin : decode (.phase 0b0010) = .ok .uXorin := by decide
theorem test_decode_b2l : decode (.phase 0b0011) = .ok .uB2l := by decide
theorem test_decode_theta : decode (.phase 0b0100) = .ok .uTheta := by decide
theorem test_decode_rhopi : decode (.phase 0b0101) = .ok .uRhopi := by decide
theorem test_decode_chi : decode (.phase 0b0110) = .ok .uChi := by decide
theorem test_decode_iota : decode (.phase 0b0111) = .ok .uIota := by decide
theorem test_decode_l2b : decode (.phase 0b1000) = .ok .uL2b := by decide
theorem test_decode_pad : decode (.phase 0b1001) = .ok .uPad := by decide
theorem test_decode_extract : decode (.phase 0b1010) = .ok .uExtract := by decide
theorem test_decode_newblk : decode (.phase 0b1011) = .ok .uNewblk := by decide
theorem test_decode_ctxout : decode (.phase 0b1100) = .ok .uCtxout := by decide
theorem test_decode_ctxin : decode (.phase 0b1101) = .ok .uCtxin := by decide

/-- The illegal words of program F4c and of 30_encoding.md R75. -/
theorem test_illegal_words :
    decodeCommand 0x0000 = .error .unassignedOpcode ∧ decodeCommand 0x7000 = .error .unassignedOpcode ∧
    decodeCommand 0xF000 = .error .unassignedOpcode ∧ decodeCommand 0x3188 = .error .reservedField ∧
    decodeCommand 0x2400 = .error .unusedVsel ∧ decodeCommand 0x3488 = .error .unusedVsel ∧
    decodeCommand 0x1401 = .error .unusedLen ∧ decodeCommand 0x5001 = .error .unusedLen := by decide

theorem test_table_words :
    decodeTableWord 16 0x6400 = some (.ctxwr .sha3_256) ∧ decodeTableWord 16 0x7000 = none ∧
    decodeTableWord 8 0xB = some .uNewblk ∧ decodeTableWord 4 0xB = some .uNewblk ∧ decodeTableWord 8 0xE = none := by
  decide

/-! ## The units (95_test_vectors.md sections 3 to 6) -/

/-- V-T1 and V-T3: Theta of a single bit, and its rotation wrapping. -/
theorem test_theta :
    afterExec .uTheta (one { ready .sha3_256 with A := laneSet 0 1 }) (fun e => (e.A[0], e.A[1], e.A[4], e.A[9], e.A[2])) =
      some (1, 1, 2, 2, 0) ∧
    afterExec .uTheta (one { ready .sha3_256 with A := laneSet 24 0x8000000000000000 })
      (fun e => (e.A[0], e.A[3], e.A[24], e.A[4])) = some (0x8000000000000000, 1, 0x8000000000000000, 0) := by
  decide +kernel

/-- V-T2. -/
theorem test_theta_count :
    afterExec .uTheta (one { ready .sha3_256 with A := countLanes }) (fun e => (e.A[0], e.A[8], e.A[22], e.SEQ.PHASE)) =
      some (0x10, 0x10, 0x09, .uRhopi) := by
  decide +kernel

/-- V-P2. -/
theorem test_rhopi :
    afterExec .uRhopi (one { ready .sha3_256 with A := countLanes }) (fun e => (e.A[0], e.A[9], e.A[15], e.A[24])) =
      some (1, 0xE000000000000002, 0x28000000, 0x58) := by
  decide +kernel

/-- V-P3, source 22. -/
theorem test_rhopi_single :
    afterExec .uRhopi (one { ready .sha3_256 with A := laneSet 22 1 }) Engine.A =
      some (laneSet 9 0x2000000000000000) := by
  decide +kernel

/-- V-C1. -/
theorem test_chi :
    afterExec .uChi
        (one { ready .sha3_256 with
          A := ((((laneSet 0 0x00FF00FF00FF00FF).set 1 0x0F0F0F0F0F0F0F0F).set 2 0x3333333333333333).set 3
            0x5555555555555555).set 4 0xFFFFFFFFFFFFFFFF })
        (fun e => (e.A[0], e.A[1], e.A[2], e.A[3], e.A[4])) =
      some (0x30CF30CF30CF30CF, 0x4B4B4B4B4B4B4B4B, 0x9999999999999999, 0x5555555555555555, 0xF0FFF0FFF0FFF0FF) := by
  decide +kernel

/-- V-C2. -/
theorem test_chi_count :
    afterExec .uChi (one { ready .sha3_256 with A := countLanes }) (fun e => (e.A[5], e.A[14], e.A[23])) =
      some (0xE, 0xB, 0x1C) := by
  decide +kernel

/-- V-I2, and V-I1 in the last round. -/
theorem test_iota :
    afterExec .uIota (one { busyAt .sha3_256 .absorb false 2 .uIota with A := laneSet 0 0xFFFFFFFFFFFFFFFF })
      (fun e => (e.A, e.SEQ.RND, e.SEQ.PHASE)) = some (laneSet 0 0x7FFFFFFFFFFF7F75, 3, .uTheta) ∧
    afterExec .uIota (one (busyAt .sha3_256 .absorb false 23 .uIota)) (fun e => (e.A, e.SEQ.RND, e.SEQ.PHASE)) =
      some (laneSet 0 0x8000000080008008, 0, .uL2b) := by
  decide +kernel

/-- V-X1. -/
theorem test_b2l :
    afterExec .uB2l (one { ready .sha3_256 with S := countBytes 200 }) (fun e => (e.A[0], e.A[11], e.A[24])) =
      some (0x0706050403020100, 0x5F5E5D5C5B5A5958, 0xC7C6C5C4C3C2C1C0) := by
  decide +kernel

/-- V-X2: no sign extension. -/
theorem test_b2l_unsigned :
    afterExec .uB2l (one { ready .sha3_256 with S := ((zeroBytes 200).set 0 0x80).set 7 0xFF }) Engine.A =
      some (laneSet 0 0xFF00000000000080) := by
  decide +kernel

/-- V-X3. -/
theorem test_l2b :
    afterExec .uL2b
        (one { busyAt .sha3_256 .absorb false 0 .uL2b with A := (laneSet 6 0x0123456789ABCDEF).set 24 0xF1E2D3C4B5A69788 })
        (fun e => (e.S[48], e.S[55], e.S[192], e.S[199], e.S[47])) = some (0xEF, 0x01, 0x88, 0xF1, 0x00) := by
  decide +kernel

/-- After U_L2B (45_sequencer.md R161). -/
theorem test_l2b_next :
    afterExec .uL2b (one (busyAt .sha3_256 .final false 0 .uL2b)) (fun e => (e.SEQ.word, e.BUSY)) = some (0x100B, true) ∧
    afterExec .uL2b (one (busyAt .sha3_256 .final true 0 .uL2b)) (fun e => (e.SEQ.word, e.BUSY)) = some (0x120A, true) ∧
    afterExec .uL2b (one (busyAt .sha3_256 .absorb false 0 .uL2b)) (fun e => (e.SEQ.word, e.BUSY)) = some (0, false) := by
  decide +kernel

/-- V-XI1, in the smallest and the largest rate. -/
theorem test_xorin :
    afterExec .uXorin (one { ready .sha3_512 with S := Vector.replicate 200 0xFF#8, BLK := countBytes 144 })
      (fun e => (e.S[1], e.S[71], e.S[72], e.S[143])) = some (0xFE, 0xB8, 0xFF, 0xFF) ∧
    afterExec .uXorin (one { ready .sha3_224 with S := Vector.replicate 200 0xFF#8, BLK := countBytes 144 })
      (fun e => (e.S[72], e.S[143], e.S[144])) = some (0xB7, 0x70, 0xFF) := by
  decide +kernel

/-- The input block of V-PAD1 to V-PAD5. -/
def padBlock : Bytes 144 := Vector.ofFn fun i => BitVec.ofNat 8 (0xC0 + i.val % 64)

/-- V-PAD3: suffix and final bit in one byte. -/
theorem test_pad_shared :
    afterExec .uPad (one { ready .sha3_256 with BLK := padBlock, LEN := 135 }) (fun e => (e.BLK[134], e.BLK[135], e.BLK[136])) =
      some (0xC6, 0x86, 0xC8) := by
  decide +kernel

/-- V-PAD2 and V-PAD1. -/
theorem test_pad :
    afterExec .uPad (one { ready .sha3_256 with BLK := padBlock, LEN := 134 }) (fun e => (e.BLK[133], e.BLK[134], e.BLK[135])) =
      some (0xC5, 0x06, 0x80) ∧
    afterExec .uPad (one { ready .sha3_256 with BLK := padBlock, LEN := 0 }) (fun e => (e.BLK[0], e.BLK[1], e.BLK[134], e.BLK[135])) =
      some (0x06, 0x00, 0x00, 0x80) := by
  decide +kernel

/-- V-PAD6's first half and P8: after U_NEWBLK the pad of an empty block is next. -/
theorem test_newblk :
    afterExec .uNewblk (one { busyAt .sha3_256 .final false 0 .uNewblk with LEN := 136 }) (fun e => (e.LEN, e.SEQ.word)) =
      some (0, 0x1209) := by
  decide +kernel

/-- The digest of SHA3_224 ends at byte 28 (42_pad_final.md R115). -/
theorem test_extract :
    afterExec .uExtract (one { busyAt .sha3_224 .final true 0 .uExtract with S := countBytes 200 })
      (fun e => (e.DOUT[27], e.DOUT[28], e.rsp.map fun r => (r.status, r.rspDlen), e.SEQ.word)) =
      some (0x1B, 0x00, some (0x01, 28), 0) := by
  decide +kernel

theorem test_zero :
    afterExec .uZero (one { busyAt .sha3_256 .reset false 0 .uZero with S := countBytes 200, DOUT := countBytes 64 })
      (fun e => (e.S[199], e.DOUT[63], e.VSEL, e.rsp.map Response.status)) = some (0, 0, .sha3_256, some 0x01) := by
  decide +kernel

/-- P5, command 3. -/
theorem test_ctxout :
    afterExec .uCtxout (one { busyAt .sha3_256 .ctxrd false 0 .uCtxout with S := countBytes 200 })
      (fun e => e.rsp.map fun r => (r.status, r.ctxVsel, r.ctxOut[199])) = some (some (0x01, 1, 0xC7)) := by
  decide +kernel

/-- P5, command 4. -/
theorem test_ctxin :
    afterExec .uCtxin (one { busyAt .sha3_256 .ctxwr false 0 .uCtxin with CTX := countBytes 200, DOUT := countBytes 64 })
      (fun e => (e.S[199], e.DOUT[63], e.rsp.map fun r => (r.status, r.ctxOut[199]))) = some (0xC7, 0, some (0x01, 0)) := by
  decide +kernel

/-! ## Acceptance (P8) -/

theorem test_init : afterExec (.init .sha3_256) State.reset (fun e => (e.SEQ.word, e.VSEL, e.status)) =
    some (0x0401, .sha3_256, 0x03) := by decide +kernel
theorem test_reset : afterExec .reset (one (ready .sha3_512)) (fun e => (e.SEQ.word, e.VSEL)) = some (0x0801, .sha3_512) := by
  decide +kernel
theorem test_absorb : afterExec (.absorb 72) (one { ready .sha3_512 with blkIn := countBytes 144 })
    (fun e => (e.SEQ.word, e.LEN, e.BLK[143])) = some (0x0C02, 72, 0x8F) := by decide +kernel
theorem test_final : afterExec (.final 0) (one (ready .sha3_256)) (fun e => e.SEQ.word) = some 0x1209 ∧
    afterExec (.final 136) (one (ready .sha3_256)) (fun e => e.SEQ.word) = some 0x1002 := by decide +kernel
theorem test_ctxrd : afterExec .ctxrd (one (ready .sha3_256)) (fun e => e.SEQ.word) = some 0x140C := by decide +kernel
theorem test_ctxwr : afterExec (.ctxwr .sha3_384) (one { Engine.reset with ctxIn := countBytes 200 })
    (fun e => (e.SEQ.word, e.VSEL, e.CTX[199], e.BOUND)) = some (0x180D, .sha3_384, 0xC7, true) := by decide +kernel
theorem test_idle : afterExec .idle (one { ready .sha3_256 with rsp := some (okResponse 0 (zeroBytes 64) 0 (zeroBytes 200)) })
    (fun e => (e.rsp, e.SEQ.word, e.VSEL)) = some (none, 0, .sha3_256) := by decide +kernel

/-! ## Faults (95_test_vectors.md section 9) -/

/-- F1, F1b, F4a, F7, F7b: from hard reset. -/
theorem test_faults_unbound :
    statusAfter 0x3088 Engine.reset = some (some 0x24) ∧ statusAfter 0x2000 Engine.reset = some (some 0x24) ∧
    statusAfter 0x4000 Engine.reset = some (some 0x24) ∧ statusAfter 0x5000 Engine.reset = some (some 0x24) ∧
    statusAfter 0x0000 Engine.reset = some (some 0x14) ∧ statusAfter 0x3388 Engine.reset = some (some 0x14) ∧
    statusAfter 0x3001 Engine.reset = some (some 0x24) := by
  decide +kernel

/-- F2, F2b, F3, F3b, F4b: on a bound instance. -/
theorem test_faults_bound :
    statusAfter 0x3088 (ready .sha3_512) = some (some 0x35) ∧ statusAfter 0x3087 (ready .sha3_256) = some (some 0x35) ∧
    statusAfter 0x4089 (ready .sha3_256) = some (some 0x45) ∧ statusAfter 0x40FF (ready .sha3_512) = some (some 0x45) ∧
    statusAfter 0x1401 (ready .sha3_256) = some (some 0x15) ∧ statusAfter 0xF000 (ready .sha3_256) = some (some 0x15) := by
  decide +kernel

/-- F5. -/
theorem test_fault_pad :
    afterStep { one (offering 0x4088 (ready .sha3_256)) with fullBlock := .fatal }
      (fun e => (e.rsp.map Response.status, e.S[0])) = some (some 0x55, 0) := by
  decide +kernel

/-- F6: a dead engine, an illegal word included. -/
theorem test_dead :
    statusAfter 0x1400 (dead .sha3_512 .blockLen) = some (some 0x35) ∧
    statusAfter 0x5000 (dead .sha3_512 .blockLen) = some (some 0x35) ∧
    statusAfter 0x0000 (dead .sha3_512 .blockLen) = some (some 0x35) := by
  decide +kernel

/-- Hard reset in the middle of a command (70_reset_and_hazards.md R210). -/
theorem test_hard_reset :
    afterStep (one { busyAt .sha3_512 .absorb false 7 .uChi with rst := true }) (fun e => (e.status, e.SEQ.word, e.rsp, e.rst)) =
      some (0x00, 0, none, false) := by
  decide +kernel

/-! ## The permutation as a function -/

/-- V-R1: round 1 after round 0 of the zero state. -/
theorem test_rounds :
    round (round (Vector.replicate 25 0#64) 0) 1 =
      #v[0x8083, 0x0000100000000000, 0x8000, 0x1, 0x0000100000008000,
         0, 0x0000200000200000, 0, 0x0000200000000000, 0x200000,
         2, 0x200, 0, 0x202, 0,
         0x10000400, 0, 0x400, 0x10000000, 0,
         0x0000010000000000, 0, 0x0000010000000004, 0, 4] := by
  decide +kernel

/-- V-K1. -/
theorem test_permutation : (keccakF (Vector.replicate 25 0#64))[0] = 0xF1258F7940E1DDE7 := by
  decide +kernel

/-! ## The written form -/

/-- P2's second command, and P1's first on instance 0. -/
theorem test_written_form :
    commandLine ((((zeroBytes 144).set 0 0x61).set 1 0x62).set 2 0x63) (zeroBytes 200) (.final 3) = "FINAL 3 ; 616263" ∧
    instanceLine 0 (commandLine (zeroBytes 144) (zeroBytes 200) (.init .sha3_256)) = "i0: INIT SHA3_256" := by
  decide +kernel

/-! ## A program placed at reset -/

/-- The first step from reset with a word placed runs it (log 19). -/
theorem test_fetch_word :
    afterStep (State.reset.withFetchWord 16 0x1C00) (fun e => (e.SEQ.word, e.VSEL)) = some (0x0401, .sha3_512) ∧
    afterStep (State.reset.withFetchWord 8 0xB) (fun e => (e.LEN, e.SEQ.PASS)) = some (0, true) := by
  decide +kernel

/-! ## Witnesses of the statements' hypotheses -/

theorem inv_ready (p : FullBlockFinal) (v : Variant) : (ready v).Inv p := by
  constructor <;> simp [ready, Engine.reset, Seq.rest, Seq.fits, zeroBytes]

theorem inv_dead (p : FullBlockFinal) (v : Variant) : (dead v .blockLen).Inv p := by
  constructor <;> simp [dead, ready, Engine.reset, Seq.rest, Seq.fits, zeroBytes]

/-- An ABSORB 136 in its last round, at U_IOTA, and in its first, at U_XORIN. -/
def absorbing (r : Fin 24) (p : Phase) : Engine := { busyAt .sha3_256 .absorb false r p with LEN := 136 }

theorem inv_absorbing (p : FullBlockFinal) : (absorbing 23 .uIota).Inv p ∧ (absorbing 0 .uXorin).Inv p := by
  constructor <;> constructor <;>
    simp [absorbing, busyAt, ready, Engine.reset, Seq.fits, inRound, zeroBytes, Variant.rate]

theorem undisturbed_one (v : Variant) : (one (ready v)).Undisturbed := by
  simp [State.Undisturbed, Engine.Undisturbed, one, ready, State.reset, Engine.reset]

theorem witness_DecodeEncodeRoundTrip :
    WellFormed (.absorb 0) = true ∧ WellFormed (.absorb 255) = true ∧ WellFormed (.final 255) = true ∧
    WellFormed (.init .sha3_512) = true ∧ WellFormed .uCtxin = true := by decide

theorem witness_EncodeDecodeRoundTrip :
    decode (.cmd 0x30FF) = .ok (.absorb 255) ∧ decode (.cmd 0x6C00) = .ok (.ctxwr .sha3_512) ∧
    decode (.phase 0x0) = .ok .idle := by decide

/-- Each row is matched by some word, and some word matches none. -/
theorem witness_CommandTableDecides :
    (cmdRows.all fun r => r.matchesWord r.matchBits) = true ∧ (cmdRows.all fun r => !r.matchesWord 0x7000) = true ∧
    (cmdRows.all fun r => !r.matchesWord 0x31FF) = true := by decide

/-- The three places a step finds its instruction. -/
theorem witness_StepRunsInstruction :
    (let e := absorbing 23 .uIota
     e.rst = false ∧ e.SEQ.PHASE ≠ .idle ∧ Instr.uIota = e.SEQ.PHASE.instr) ∧
    (let e := offering 0x1C00 Engine.reset
     e.rst = false ∧ e.SEQ.PHASE = .idle ∧ e.cmdValid = true ∧ e.BUSY = false ∧
       decodeCommand e.cmd = .ok (.init .sha3_512)) ∧
    (let e := ready .sha3_256
     e.rst = false ∧ e.SEQ.PHASE = .idle ∧ e.cmdValid = false) ∧
    (∀ s : State, ∃ t, exec .uIota s = .next t) ∧ (∀ s : State, ∃ t, exec (.init .sha3_512) s = .next t) ∧
    ∀ s : State, ∃ t, exec .idle s = .next t :=
  ⟨by decide, by decide, by decide, fun _ => ⟨_, rfl⟩, fun _ => ⟨_, rfl⟩, fun _ => ⟨_, rfl⟩⟩

theorem witness_FetchWordRuns :
    decodeTableWord 16 0x30FF = some (.absorb 255) ∧ decodeTableWord 8 0x0 = some .idle ∧ decodeTableWord 4 0xD = some .uCtxin ∧
    ∀ s : State, ∃ t, exec .idle s = .next t :=
  ⟨by decide, by decide, by decide, fun _ => ⟨_, rfl⟩⟩

/-- A port in use, and each thing the host can do on a free one. -/
theorem witness_HostMovesOnPortsOnly :
    (offering 0x5000 (ready .sha3_256)).cmdValid = true ∧ ({ ready .sha3_256 with rst := true } : Engine).rst = true ∧
    (ready .sha3_256).cmdValid = false ∧ (ready .sha3_256).rst = false ∧ (ready .sha3_256).host = [] ∧
    (∀ ev : HostEvent, ({ ready .sha3_256 with host := [ev] } : Engine).host = [ev] ∧
      ({ ready .sha3_256 with host := [ev] } : Engine).cmdValid = false) :=
  ⟨rfl, rfl, rfl, rfl, rfl, fun _ => ⟨rfl, rfl⟩⟩

theorem witness_IdleWaitsOrAccepts :
    (ready .sha3_256).cmdValid = false ∧ (absorbing 23 .uIota).BUSY = true ∧
    (offering 0x5000 (ready .sha3_256)).cmdValid = true ∧ (offering 0x5000 (ready .sha3_256)).BUSY = false ∧
    decodeCommand (offering 0x5000 (ready .sha3_256)).cmd = .ok .ctxrd := by decide

theorem witness_HardResetClears : (one { absorbing 23 .uIota with rst := true }).self.rst = true := rfl

theorem witness_LifecycleCommandsStart :
    State.reset.self.FAULT = false ∧ (one (ready .sha3_512)).self.FAULT = false ∧ (one (ready .sha3_512)).self.BOUND = true :=
  ⟨rfl, rfl, rfl⟩

/-- Every variant's own rate. -/
theorem witness_AbsorbStarts :
    (∀ v, (one (ready v)).self.Ready) ∧ 144 = (one (ready .sha3_224)).self.VSEL.rate ∧
    72 = (one (ready .sha3_512)).self.VSEL.rate := ⟨fun _ => ⟨rfl, rfl⟩, rfl, rfl⟩

theorem witness_FinalStarts :
    (one (ready .sha3_256)).self.Ready ∧ 0 < (one (ready .sha3_256)).self.VSEL.rate ∧
    135 < (one (ready .sha3_256)).self.VSEL.rate ∧ 136 = (one (ready .sha3_256)).self.VSEL.rate ∧
    (one (ready .sha3_256)).fullBlock = .extraBlock := ⟨⟨rfl, rfl⟩, by decide, by decide, rfl, rfl⟩

theorem witness_UnboundCommandsFault : State.reset.self.FAULT = false ∧ State.reset.self.BOUND = false := ⟨rfl, rfl⟩

/-- One byte short and one byte long. -/
theorem witness_WrongBlockLengthFaults :
    (one (ready .sha3_256)).self.Ready ∧ 135 ≠ (one (ready .sha3_256)).self.VSEL.rate ∧
    137 ≠ (one (ready .sha3_256)).self.VSEL.rate := ⟨⟨rfl, rfl⟩, by decide, by decide⟩

theorem witness_WrongValidLengthFaults :
    (one (ready .sha3_256)).self.Ready ∧ (one (ready .sha3_256)).self.VSEL.rate < 137 ∧
    (one (ready .sha3_512)).self.VSEL.rate < 73 := ⟨⟨rfl, rfl⟩, by decide, by decide⟩

/-- `fatal` with the full block, `fatal` one byte below it, `extra_block` with the full block. -/
theorem witness_PadInternalFaults :
    ({ one (ready .sha3_256) with fullBlock := .fatal } : State).self.Ready ∧
    ({ one (ready .sha3_256) with fullBlock := .fatal } : State).fullBlock = .fatal ∧
    136 = (ready .sha3_256).VSEL.rate ∧ 135 ≤ (ready .sha3_256).VSEL.rate ∧ 135 ≠ (ready .sha3_256).VSEL.rate ∧
    (one (ready .sha3_256)).fullBlock = .extraBlock := ⟨⟨rfl, rfl⟩, rfl, rfl, by decide, by decide, rfl⟩

theorem witness_IllegalWordFaults :
    let e := (one (offering 0x7000 (ready .sha3_256))).self
    e.rst = false ∧ e.SEQ.PHASE = .idle ∧ e.BUSY = false ∧ e.cmdValid = true ∧ e.FAULT = false ∧
      decodeCommand e.cmd = .error .unassignedOpcode := by decide

theorem witness_DeadEngineAnswers :
    let e := (one (offering 0x7000 (dead .sha3_256 .unbound))).self
    e.FAULT = true ∧ e.rst = false ∧ e.SEQ = Seq.rest ∧ e.BUSY = false ∧ e.cmdValid = true := by decide

/-- One offer for each outcome, in the order of R187: dead, illegal, unbound, block length, valid length, padding, accepted. -/
theorem witness_ChecksInOrder :
    let offers := [offering 0x7000 (dead .sha3_256 .unbound), offering 0x7000 Engine.reset, offering 0x3001 Engine.reset,
      offering 0x3087 (ready .sha3_256), offering 0x4089 (ready .sha3_256), offering 0x4088 (ready .sha3_256),
      offering 0x3088 (ready .sha3_256)]
    (offers.all fun e => !e.rst && e.SEQ.PHASE == .idle && !e.BUSY && e.cmdValid) = true ∧
    offers.map (fun e => afterStep { one e with fullBlock := .fatal } Engine.CAUSE) =
      [some .unbound, some .illegalCmd, some .unbound, some .blockLen, some .validLen, some .padInternal, some .none] := by
  decide +kernel

theorem witness_FaultIsPermanent :
    let s := one (dead .sha3_512 .blockLen)
    s.self.Inv s.fullBlock ∧ s.self.FAULT = true ∧ s.self.rst = false := ⟨inv_dead _ _, rfl, rfl⟩

/-- A step that responds with FAULT, and one that responds without. -/
theorem witness_ResponsesAreOkOrEmpty :
    statusAfter 0x5000 (dead .sha3_512 .blockLen) = some (some 0x35) ∧
    afterStep (one (busyAt .sha3_256 .reset false 0 .uZero)) (fun e => e.rsp.map Response.status) = some (some 0x01) ∧
    (one (ready .sha3_256)).self.Inv .extraBlock := ⟨by decide +kernel, by decide +kernel, inv_ready _ _⟩

theorem witness_LanesToBytesUnit :
    (one (absorbing 0 .uL2b)).self.SEQ.OPC = .absorb ∧
    (busyAt .sha3_256 .final false 0 .uL2b).SEQ.OPC = .final ∧ (busyAt .sha3_256 .final false 0 .uL2b).SEQ.PASS = false ∧
    (busyAt .sha3_256 .final true 0 .uL2b).SEQ.PASS = true := ⟨rfl, rfl, rfl, rfl⟩

/-- The last byte of the rate region and the first of the capacity region. -/
theorem witness_XorinUnit : 71 < (ready .sha3_512).VSEL.rate ∧ (ready .sha3_512).VSEL.rate ≤ 72 ∧
    143 < (ready .sha3_224).VSEL.rate ∧ (ready .sha3_224).VSEL.rate ≤ 144 := by decide

theorem witness_RotationMovesEveryBit : rotl64 0x8000000000000000 1 = 1 ∧ rotl64 1 63 = 0x8000000000000000 := by decide

/-- RC[2] = 0x800000000000808A has bit 63 set and RC[0] = 1 bit 0: both ends of the positions (43_permutation.md R137). -/
theorem witness_RhoPiTables : RC[2].getLsbD 63 = true ∧ RC[0].getLsbD 0 = true ∧ RC[0].getLsbD 63 = false := by decide +kernel

theorem witness_IotaUnit :
    (absorbing 22 .uIota).SEQ.RND.val < 23 ∧ (absorbing 23 .uIota).SEQ.RND.val = 23 := by decide

/-- The smallest and the largest LEN that is padded. -/
theorem witness_PadUnit :
    ({ ready .sha3_256 with LEN := 0 } : Engine).LEN.toNat < (ready .sha3_256).VSEL.rate ∧
    ({ ready .sha3_256 with LEN := 135 } : Engine).LEN.toNat < (ready .sha3_256).VSEL.rate := by decide

theorem witness_PadStepsGivePadF : 0 < Variant.sha3_512.rate ∧ 71 < Variant.sha3_512.rate ∧ 143 < Variant.sha3_224.rate := by
  decide

theorem witness_ExtractUnit : (one (busyAt .sha3_224 .final true 0 .uExtract)).self.FAULT = false := rfl

theorem witness_ContextOutUnit : (one (busyAt .sha3_256 .ctxrd false 0 .uCtxout)).self.FAULT = false := rfl

/-- Two blocks that differ only past the rate of SHA3_512, and only past a `len` of 71. -/
theorem witness_IgnoredBytesDoNotMatter :
    (∀ k (h : k < 144), k < Variant.sha3_512.rate → (zeroBytes 144)[k] = ((zeroBytes 144).set 72 0xEE)[k]) ∧
    71 ≤ Variant.sha3_512.rate ∧
    (∀ k (h : k < 144), k < 71 → (zeroBytes 144)[k] = ((zeroBytes 144).set 71 0xEE)[k]) ∧
    (zeroBytes 144)[72] ≠ ((zeroBytes 144).set 72 0xEE)[72] := by
  refine ⟨?_, by decide, ?_, by decide⟩
  · intro k h hk
    have : 72 ≠ k := by simp only [Variant.rate] at hk; omega
    simp [this]
  · intro k h hk
    have : 71 ≠ k := by omega
    simp [this]

theorem inv_one {e : Engine} (h : e.Inv .extraBlock) : (one e).Inv := by
  intro f hf
  simp only [State.instances, one, State.reset, List.nil_append, List.mem_singleton] at hf
  subst hf
  exact h

theorem witness_StepKeepsInvariant :
    (one (absorbing 23 .uIota)).Inv ∧ ∃ t, step (one (absorbing 23 .uIota)) = .next t := ⟨inv_one (inv_absorbing _).1, ⟨_, rfl⟩⟩

/-- The last round of an ABSORB, two micro-steps from its response, and the start, 99 from it. -/
theorem witness_CommandResponds :
    (one (absorbing 23 .uIota)).self.Inv .extraBlock ∧ (one (absorbing 23 .uIota)).Undisturbed ∧
    (one (absorbing 23 .uIota)).self.BUSY = true ∧ (absorbing 23 .uIota).SEQ.stepsLeft = 2 ∧
    (one (absorbing 0 .uXorin)).self.Inv .extraBlock ∧ (absorbing 0 .uXorin).SEQ.stepsLeft = 99 :=
  ⟨(inv_absorbing _).1, ⟨rfl, rfl, by simp [one, absorbing, busyAt, ready, Engine.reset]⟩, rfl, by decide,
    (inv_absorbing _).2, by decide⟩

theorem witness_LifecycleCommandsComplete :
    (one (ready .sha3_256)).self.Inv .extraBlock ∧ (one (ready .sha3_256)).Undisturbed ∧
    (one (ready .sha3_256)).self.FAULT = false ∧ (one (ready .sha3_256)).self.BOUND = true :=
  ⟨inv_ready _ _, undisturbed_one _, rfl, rfl⟩

theorem witness_AbsorbCompletes :
    (one (ready .sha3_256)).self.Inv .extraBlock ∧ (one (ready .sha3_256)).Undisturbed ∧ (one (ready .sha3_256)).self.Ready ∧
    136 = (one (ready .sha3_256)).self.VSEL.rate := ⟨inv_ready _ _, undisturbed_one _, ⟨rfl, rfl⟩, rfl⟩

/-- `len` one below the rate, and the rate itself under extra_block. -/
theorem witness_FinalCompletes :
    (one (ready .sha3_256)).self.Inv .extraBlock ∧ (one (ready .sha3_256)).Undisturbed ∧ (one (ready .sha3_256)).self.Ready ∧
    135 ≤ (one (ready .sha3_256)).self.VSEL.rate ∧ 135 ≠ (one (ready .sha3_256)).self.VSEL.rate ∧
    136 = (one (ready .sha3_256)).self.VSEL.rate ∧ (one (ready .sha3_256)).fullBlock = .extraBlock :=
  ⟨inv_ready _ _, undisturbed_one _, ⟨rfl, rfl⟩, by decide, by decide, rfl, rfl⟩

/-- One whole block and a last one of 71 bytes for a SHA3_512 instance. -/
def streaming : State :=
  (one (ready .sha3_512)).withHost [offerBlock (.absorb 72) (countBytes 144), offerBlock (.final 71) (zeroBytes 144)]

/-- A full last block, which extra_block allows. -/
def streamingFull : State :=
  (one (ready .sha3_512)).withHost [offerBlock (.absorb 72) (countBytes 144), offerBlock (.final 72) (zeroBytes 144)]

theorem witness_BlockStreamGivesDigest :
    (streaming.turns = [] ∧ streaming.self.Inv streaming.fullBlock ∧ streaming.self.Ready ∧ streaming.self.rst = false ∧
      streaming.self.cmdValid = false ∧ streaming.self.BUSY = false ∧ 71 ≤ streaming.self.VSEL.rate ∧
      71 ≠ streaming.self.VSEL.rate ∧
      streaming.self.host =
        [countBytes 144].map (offerBlock (.absorb streaming.self.VSEL.rate)) ++ [offerBlock (.final 71) (zeroBytes 144)]) ∧
    (streamingFull.turns = [] ∧ streamingFull.self.Inv streamingFull.fullBlock ∧ streamingFull.self.Ready ∧
      streamingFull.self.rst = false ∧ streamingFull.self.cmdValid = false ∧ streamingFull.self.BUSY = false ∧
      72 = streamingFull.self.VSEL.rate ∧ streamingFull.fullBlock = .extraBlock ∧
      streamingFull.self.host =
        [countBytes 144].map (offerBlock (.absorb streamingFull.self.VSEL.rate)) ++ [offerBlock (.final 72) (zeroBytes 144)]) := by
  refine ⟨⟨rfl, ?_, ⟨rfl, rfl⟩, rfl, rfl, rfl, by decide, by decide, rfl⟩,
    ⟨rfl, ?_, ⟨rfl, rfl⟩, rfl, rfl, rfl, rfl, rfl, rfl⟩⟩ <;>
  constructor <;>
  simp [streaming, streamingFull, State.withHost, State.onSelf, one, ready, State.reset, Engine.reset, Seq.rest, Seq.fits, zeroBytes]

/-- Two unbound instances that differ in VSEL, S and the transients, and cannot be told apart. -/
theorem witness_ScratchIsUnobservable :
    let f : Engine := { Engine.reset with VSEL := .sha3_512, S := countBytes 200, A := countLanes, BLK := countBytes 144, LEN := 7 }
    (one Engine.reset).self.Inv .extraBlock ∧ f.Inv .extraBlock ∧ Engine.reset.LooksLike f := by
  refine ⟨?_, ?_, ?_⟩ <;> constructor <;> simp [one, State.reset, Engine.reset, Seq.rest, Seq.fits, zeroBytes, aLive]

theorem witness_InterleavingImmaterial :
    (State.powerOn 1 .extraBlock).turns = [] ∧ (0 : Nat) ≠ 1 ∧ 0 < (State.powerOn 1 .extraBlock).instances.length ∧
    1 < (State.powerOn 1 .extraBlock).instances.length := ⟨rfl, by decide, by decide, by decide⟩

/-- A SHA3_256 source at U_CTXOUT and an unbound destination with what the source gives on its port. -/
theorem witness_CloneCopies :
    let a := one { busyAt .sha3_256 .ctxrd false 0 .uCtxout with S := countBytes 200 }
    let b := one { Engine.reset with ctxIn := countBytes 200 }
    a.self.FAULT = false ∧
    (∃ a' r, exec .uCtxout a = .next a' ∧ a'.self.rsp = some r ∧ b.self.ctxIn = r.ctxOut) ∧ b.self.FAULT = false ∧ b.Undisturbed :=
  ⟨rfl, ⟨_, _, rfl, rfl, rfl⟩, rfl, ⟨rfl, rfl, by simp [one, Engine.reset]⟩⟩

/-- Instructions that do change each register. -/
theorem witness_RegisterWriters :
    afterExec .uXorin (one { ready .sha3_256 with BLK := countBytes 144 }) (fun e => e.S[1]) = some 1 ∧
    afterExec .uIota (one (absorbing 0 .uIota)) (fun e => e.A[0]) = some 1 ∧
    afterExec .idle (one (offering 0x1C00 Engine.reset)) Engine.VSEL = some .sha3_512 ∧
    afterExec .uNewblk (one (absorbing 0 .uIota)) Engine.LEN = some 0 ∧
    afterExec (.absorb 136) (one { ready .sha3_256 with blkIn := countBytes 144 }) (fun e => e.BLK[1]) = some 1 ∧
    afterExec (.absorb 1) (one { ready .sha3_256 with DOUT := countBytes 64 }) (fun e => (e.DOUT[1], e.FAULT)) =
      some (0, true) := by
  decide +kernel

theorem witness_BusyEngineLeavesOffer :
    let e := (one (offering 0x2000 (absorbing 23 .uIota))).self
    e.rst = false ∧ e.BUSY = true ∧ e.cmdValid = true := by decide

end Sys2Proof.Tests
end

section
/-! The variants (00_scope.md R5, 10_state.md R23): the facts about a rate that its table gives, and the obligation of this family. -/

namespace Sys2Proof

/-- Rate and capacity share the 200 bytes of S (00_scope.md R5). -/
theorem Variant.rate_add_cap (v : Variant) : v.rate + v.cap = 200 := by cases v <;> rfl

/-- A rate is a whole number of lanes (10_state.md R23). -/
theorem Variant.rate_mod_eight (v : Variant) : v.rate % 8 = 0 := by cases v <;> rfl

/-- Settles O12: the row of each variant by cases, and the relations between its quantities by their lemmas. -/
theorem variantTable : Obligations.VariantTable := by
  intro v
  refine ⟨?row, v.rate_add_cap, v.dlen_le_rate, v.rate_mod_eight, v.ofCode_code⟩
  case row => cases v <;> rfl

end Sys2Proof
end

section
/-! The state (10_state.md): the host's move on the ports (R31), and the invariant, which holds right after reset (R34) and along every
step (R27, R30). -/

namespace Sys2Proof.Machine

/-! ## The host's move (10_state.md R31; log 7) -/

/-- While a command or `rst` stands on the ports the host leaves them as they are. -/
theorem Engine.hostMoves_of_pending {e : Engine} (h : e.cmdValid = true ∨ e.rst = true) : e.hostMoves = e := by
  unfold Engine.hostMoves
  rw [if_pos (by simpa using h)]

/-- The host's move touches input ports and its own list only. -/
theorem Engine.hostMoves_eq (e : Engine) :
    e.hostMoves = { e with rst := e.hostMoves.rst, cmdValid := e.hostMoves.cmdValid, cmd := e.hostMoves.cmd,
                           blkIn := e.hostMoves.blkIn, ctxIn := e.hostMoves.ctxIn, host := e.hostMoves.host } := by
  unfold Engine.hostMoves
  repeat' split
  all_goals rfl

/-- Settles O8: the ports in use, and each thing the host can do on free ones. -/
theorem hostMovesOnPortsOnly : Obligations.HostMovesOnPortsOnly := by
  intro e
  refine ⟨e.hostMoves_eq, Engine.hostMoves_of_pending, fun hv hr => ?_⟩
  refine ⟨fun hh => ?_, fun h hh => ?_, fun h hh => ?_, fun w b c h hh => ?_⟩
  all_goals simp only [Engine.hostMoves, hv, hr, hh, Bool.or_self, Bool.false_eq_true, if_false]

/-! ## Responses (10_state.md R32) -/

@[simp] theorem Engine.response_status (e : Engine) (d : BitVec 7) (v : BitVec 2) (c : Bytes 200) :
    (e.response d v c).status = e.status := by
  unfold Engine.response
  split <;> rfl

/-- Where a dead engine shows no digest, every response shows DOUT. -/
theorem Engine.response_dout {e : Engine} (h : e.FAULT = true → e.DOUT = zeroBytes 64)
    (d : BitVec 7) (v : BitVec 2) (c : Bytes 200) : (e.response d v c).dout = e.DOUT := by
  cases hf : e.FAULT
  · rw [response_of_ok hf]
  · rw [response_of_fault hf, h hf]

theorem zeroBytes_getElem {n k : Nat} (h : k < n) : (zeroBytes n)[k] = 0 := by
  simp [zeroBytes]

/-! ## The invariant (10_state.md R27, R30; 45_sequencer.md R171) -/

variable {p : FullBlockFinal} {e : Engine}

/-- An engine that runs a command: busy, bound and without fault (45_sequencer.md R162, 60_exceptions.md R187). -/
structure Engine.Live (e : Engine) : Prop where
  busy : e.BUSY = true
  bound : e.BOUND = true
  fault : e.FAULT = false
  cause : e.CAUSE = .none

/-- At a command boundary SEQ is at rest and the engine is not busy (10_state.md R30). -/
theorem Engine.Inv.at_boundary (h : e.Inv p) (hp : e.SEQ.PHASE = .idle) : e.SEQ = Seq.rest ∧ e.BUSY = false := by
  refine ⟨h.rest hp, ?_⟩
  have : ¬ e.BUSY = true := fun hb => h.busy.mp hb hp
  simpa using this

/-- An engine whose FAULT is 0 has CAUSE 0 (10_state.md R27). -/
theorem Engine.Inv.cause_of_ok (h : e.Inv p) (hf : e.FAULT = false) : e.CAUSE = .none := by
  by_contra hc
  rw [h.cause.mpr hc] at hf
  cases hf

/-- In the middle of a command the engine is live. -/
theorem Engine.Inv.live (h : e.Inv p) (hp : e.SEQ.PHASE ≠ .idle) : e.Live := by
  have hf : e.FAULT = false := by
    by_contra hf
    exact hp (h.dead (by simpa using hf)).1
  exact ⟨h.busy.mpr hp, h.bound hp, hf, h.cause_of_ok hf⟩

/-- At a boundary DOUT is zero beyond the digest (10_state.md R25). -/
theorem Engine.Inv.dout_at_boundary (h : e.Inv p) (hp : e.SEQ.PHASE = .idle) :
    ∀ k (h : k < 64), e.VSEL.dlen ≤ k → e.DOUT[k] = 0 :=
  h.dout (by simp [hp]) (by simp [hp])

/-- The invariant at a command boundary: what is left of it there. -/
theorem Engine.Inv.of_rest (hq : e.SEQ = Seq.rest) (hb : e.BUSY = false) (hc : e.FAULT = true ↔ e.CAUSE ≠ .none)
    (hd : e.FAULT = true → e.DOUT = zeroBytes 64) (ht : ∀ k (h : k < 64), e.VSEL.dlen ≤ k → e.DOUT[k] = 0)
    (hr : ∀ r, e.rsp = some r → r.status = e.status ∧ r.dout = e.DOUT ∧ (e.BOUND = true ∨ e.FAULT = true)) :
    e.Inv p where
  busy := by simp [hq, hb, Seq.rest]
  rest _ := hq
  rnd _ := by rw [hq]; rfl
  fits := by rw [hq]; rfl
  cause := hc
  dead hf := ⟨by rw [hq]; rfl, hd hf⟩
  bound hp := absurd (by rw [hq]; rfl) hp
  absorbLen ho := by rw [hq] at ho; cases ho
  fullPass ho := by rw [hq] at ho; cases ho
  padLen hp := by rw [hq] at hp; cases hp
  dout _ _ := ht
  response r h := ⟨by rw [hq]; rfl, hr r h⟩

/-- The invariant in the middle of a command: what is left of it there. -/
theorem Engine.Inv.of_live (hl : e.Live) (hr : e.rsp = none) (hp : e.SEQ.PHASE ≠ .idle)
    (hrnd : inRound e.SEQ.PHASE = false → e.SEQ.RND = 0) (hfit : e.SEQ.fits = true)
    (habs : e.SEQ.OPC = .absorb → e.LEN.toNat = e.VSEL.rate)
    (hfull : e.SEQ.OPC = .final → e.SEQ.PASS = false → e.LEN.toNat = e.VSEL.rate ∧ p = .extraBlock)
    (hpad : e.SEQ.PHASE = .uPad → e.LEN.toNat < e.VSEL.rate)
    (ht : e.SEQ.PHASE ≠ .uZero → e.SEQ.PHASE ≠ .uCtxin → ∀ k (h : k < 64), e.VSEL.dlen ≤ k → e.DOUT[k] = 0) :
    e.Inv p where
  busy := by simp [hl.busy, hp]
  rest h := absurd h hp
  rnd := hrnd
  fits := hfit
  cause := by simp [hl.fault, hl.cause]
  dead h := by simp [hl.fault] at h
  bound _ := hl.bound
  absorbLen := habs
  fullPass := hfull
  padLen := hpad
  dout := ht
  response r h := by simp [hr] at h

/-- Responding leads into the invariant (10_state.md R30, R32). -/
theorem Engine.Inv.finish (hc : e.FAULT = true ↔ e.CAUSE ≠ .none) (hd : e.FAULT = true → e.DOUT = zeroBytes 64)
    (ha : e.BOUND = true ∨ e.FAULT = true) (ht : ∀ k (h : k < 64), e.VSEL.dlen ≤ k → e.DOUT[k] = 0)
    (d : BitVec 7) (v : BitVec 2) (c : Bytes 200) : (e.finish d v c).Inv p := by
  refine .of_rest rfl rfl hc hd ht fun r hr => ?_
  obtain rfl : e.atRest.response d v c = r := Option.some.inj hr
  exact ⟨e.atRest.response_status d v c, Engine.response_dout (e := e.atRest) hd d v c, ha⟩

/-- The end of a command, with S and DOUT written (45_sequencer.md R161). -/
theorem Engine.Inv.finish_live (hl : e.Live) (s : Bytes 200) {x : Bytes 64}
    (ht : ∀ k (h : k < 64), e.VSEL.dlen ≤ k → x[k] = 0) (d : BitVec 7) (v : BitVec 2) (c : Bytes 200) :
    (({ e with S := s, DOUT := x } : Engine).finish d v c).Inv p :=
  .finish (e := { e with S := s, DOUT := x }) (by simp [hl.fault, hl.cause]) (by simp [hl.fault]) (.inl hl.bound) ht d v c

/-- The same with no digest and no context on the ports. -/
theorem Engine.Inv.respond_live (hl : e.Live) (s : Bytes 200) {x : Bytes 64}
    (ht : ∀ k (h : k < 64), e.VSEL.dlen ≤ k → x[k] = 0) : ({ e with S := s, DOUT := x } : Engine).respond.Inv p :=
  .finish_live hl s ht 0 0 (zeroBytes 200)

/-- The dead response (60_exceptions.md R189). -/
theorem Engine.Inv.dead_respond (h : e.Inv p) (hp : e.SEQ.PHASE = .idle) (hf : e.FAULT = true) :
    e.take.respond.Inv p :=
  .finish (e := e.take) h.cause (fun hf => (h.dead hf).2) (.inr hf) (h.dout_at_boundary hp) ..

/-- Taking a fault (60_exceptions.md R184). -/
theorem Engine.Inv.takeFault {c : Cause} (hc : c ≠ .none) (e : Engine) : (e.takeFault c).Inv p :=
  .finish (by simp [hc]) (fun _ => rfl) (.inr rfl) (fun _ hk _ => zeroBytes_getElem hk) ..

/-- Right after hard reset (10_state.md R34), whatever stands on the ports. -/
theorem Engine.Inv.hardReset (e : Engine) : e.hardReset.Inv p :=
  .of_rest rfl rfl (by simp [Engine.hardReset, Engine.reset]) (fun _ => rfl) (fun _ hk _ => zeroBytes_getElem hk)
    (fun _ hr => by cases hr)

theorem Engine.Inv.hostMoves (h : e.Inv p) : e.hostMoves.Inv p := by
  rw [e.hostMoves_eq]
  exact { h with }

/-- IDLE with nothing to accept (45_sequencer.md R162). -/
theorem unitOf_idle_of_not_offered (h : ¬ (e.cmdValid = true ∧ e.BUSY = false)) :
    unitOf p .idle e = { e with rsp := none } := by
  have hn : ¬ e.offered = true := by simpa [Engine.offered, Engine.cmdReady] using h
  exact if_neg hn

/-- Waiting at a boundary (45_sequencer.md R162). -/
theorem Engine.Inv.wait (h : e.Inv p) : ({ e with rsp := none } : Engine).Inv p :=
  { h with response := fun _ hr => by cases hr }

/-! ### Acceptance (45_sequencer.md R162) -/

/-- An acceptance keeps the invariant when its check names a cause and the command it starts keeps it. -/
theorem Engine.Inv.accept (h : e.Inv p) (hp : e.SEQ.PHASE = .idle) {nb : Bool} {chk : Engine → Option Cause}
    {start : Engine → Engine} (hchk : chk e.take ≠ some .none)
    (hstart : e.FAULT = false → (nb = true → e.BOUND = true) → chk e.take = none → (start e.take).Inv p) :
    (e.accept nb chk start).Inv p := by
  obtain ⟨hf, heq⟩ | ⟨hf, -, -, heq⟩ | ⟨hf, -, c, hc, heq⟩ | ⟨hf, hb, hc, heq⟩ := accept_cases nb chk start e
  all_goals rw [heq]
  · exact h.dead_respond hp hf
  · exact .takeFault (by decide) _
  · exact .takeFault (fun h0 => hchk (h0 ▸ hc)) _
  · exact hstart hf hb hc

theorem Engine.Inv.acceptIllegal (h : e.Inv p) (hp : e.SEQ.PHASE = .idle) : e.acceptIllegal.Inv p := by
  obtain ⟨hf, heq⟩ | ⟨hf, heq⟩ := acceptIllegal_cases e
  all_goals rw [heq]
  · exact h.dead_respond hp hf
  · exact .takeFault (by decide) _

/-- The start of a lifecycle command, which has no use for LEN (45_sequencer.md R163, R164). -/
theorem Engine.Inv.launch_lifecycle (hl : e.Live) (hr : e.rsp = none) {o : Opc} {ph : Phase} (hp : ph ≠ .idle)
    (hfit : ({ OPC := o, PASS := false, RND := 0, PHASE := ph } : Seq).fits = true) (ha : o ≠ .absorb) (hf : o ≠ .final)
    (ht : ph ≠ .uZero → ph ≠ .uCtxin → ∀ k (h : k < 64), e.VSEL.dlen ≤ k → e.DOUT[k] = 0) :
    (e.launch o false ph).Inv p :=
  .of_live { hl with } hr hp (fun _ => rfl) hfit (fun h => absurd h ha) (fun h => absurd h hf)
    (fun h => by obtain rfl : ph = .uPad := h; simp [Seq.fits] at hfit) ht

theorem Engine.Inv.acceptInit (h : e.Inv p) (hp : e.SEQ.PHASE = .idle) (v : Variant) : (acceptInit v e).Inv p :=
  h.accept hp nofun fun hf _ _ =>
    .launch_lifecycle (e := e.take.bind v) (o := .init) (ph := .uZero) ⟨rfl, rfl, hf, h.cause_of_ok hf⟩ rfl
      nofun rfl nofun nofun (fun hz => absurd rfl hz)

theorem Engine.Inv.acceptCtxwr (h : e.Inv p) (hp : e.SEQ.PHASE = .idle) (v : Variant) : (acceptCtxwr v e).Inv p :=
  h.accept hp nofun fun hf _ _ =>
    .launch_lifecycle (e := (e.take.bind v).loadContext) (o := .ctxwr) (ph := .uCtxin)
      ⟨rfl, rfl, hf, h.cause_of_ok hf⟩ rfl nofun rfl nofun nofun (fun _ hx => absurd rfl hx)

theorem Engine.Inv.acceptReset (h : e.Inv p) (hp : e.SEQ.PHASE = .idle) : (acceptReset e).Inv p :=
  h.accept hp nofun fun hf hb _ =>
    .launch_lifecycle (e := e.take) (o := .reset) (ph := .uZero) ⟨rfl, hb rfl, hf, h.cause_of_ok hf⟩ rfl
      nofun rfl nofun nofun (fun hz => absurd rfl hz)

theorem Engine.Inv.acceptCtxrd (h : e.Inv p) (hp : e.SEQ.PHASE = .idle) : (acceptCtxrd e).Inv p :=
  h.accept hp nofun fun hf hb _ =>
    .launch_lifecycle (e := e.take) (o := .ctxrd) (ph := .uCtxout) ⟨rfl, hb rfl, hf, h.cause_of_ok hf⟩ rfl
      nofun rfl nofun nofun (fun _ _ => h.dout_at_boundary hp)

/-- A `len` up to a rate fits the length register (10_state.md R26). -/
theorem toNat_len_of_le {len : Nat} {v : Variant} (h : len ≤ v.rate) : (BitVec.ofNat 8 len).toNat = len := by
  have := v.rate_le
  rw [BitVec.toNat_ofNat, Nat.mod_eq_of_lt (by omega)]

theorem absorbCheck_eq_none {len : Nat} : absorbCheck len e = none ↔ len = e.VSEL.rate := by
  simp [absorbCheck]

theorem absorbCheck_ne_none_cause (len : Nat) : absorbCheck len e ≠ some .none := by
  unfold absorbCheck
  split <;> decide

theorem finalCheck_ne_none_cause (len : Nat) : finalCheck p len e ≠ some .none := by
  unfold finalCheck
  repeat' split
  all_goals decide

/-- An ABSORB starts with LEN = rate (41_absorb.md R105). -/
theorem Engine.Inv.acceptAbsorb (h : e.Inv p) (hp : e.SEQ.PHASE = .idle) (len : Nat) : (acceptAbsorb len e).Inv p := by
  refine h.accept hp (absorbCheck_ne_none_cause len) fun hf hb hc => ?_
  have hl : len = e.VSEL.rate := absorbCheck_eq_none.mp hc
  exact .of_live ⟨rfl, hb rfl, hf, h.cause_of_ok hf⟩ rfl (by simp) (by simp) rfl
    (fun _ => (toNat_len_of_le hl.le).trans hl) (by simp) (by simp) (fun _ _ => h.dout_at_boundary hp)

/-- A FINAL starts with a full block at U_XORIN, else at U_PAD (42_pad_final.md R110, R111). -/
theorem Engine.Inv.acceptFinal (h : e.Inv p) (hp : e.SEQ.PHASE = .idle) (len : Nat) : (acceptFinal p len e).Inv p := by
  refine h.accept hp (finalCheck_ne_none_cause len) fun hf hb hc => ?_
  have hl : len < e.VSEL.rate ∨ len = e.VSEL.rate ∧ p = .extraBlock := finalCheck_eq_none.mp hc
  have hlen : (BitVec.ofNat 8 len).toNat = len := toNat_len_of_le (v := e.VSEL) (by omega)
  have hlive : (e.take.loadBlock len).Live := ⟨rfl, hb rfl, hf, h.cause_of_ok hf⟩
  unfold startFinal
  split
  next heq =>
    have hx : p = .extraBlock := by
      obtain hlt | ⟨-, hx⟩ := hl
      · exact absurd heq hlt.ne
      · exact hx
    exact .of_live { hlive with } rfl (by simp) (by simp) rfl (by simp) (fun _ _ => ⟨hlen.trans heq, hx⟩) (by simp)
      (fun _ _ => h.dout_at_boundary hp)
  next hne =>
    have hlt : (BitVec.ofNat 8 len).toNat < e.VSEL.rate := by
      have hne : len ≠ e.VSEL.rate := hne
      omega
    exact .of_live { hlive with } rfl (by simp) (by simp) rfl (by simp) (by simp) (fun _ => hlt)
      (fun _ _ => h.dout_at_boundary hp)

/-- Every command accepted at a boundary keeps the invariant. -/
theorem Engine.Inv.command (h : e.Inv p) (hp : e.SEQ.PHASE = .idle) {i : Instr} {w : CmdWord}
    (hi : decodeCommand w = .ok i) : (unitOf p i e).Inv p := by
  obtain ⟨v, rfl⟩ | rfl | ⟨len, rfl⟩ | ⟨len, rfl⟩ | rfl | ⟨v, rfl⟩ := decodeCommand_is_command hi
  · exact h.acceptInit hp v
  · exact h.acceptReset hp
  · exact h.acceptAbsorb hp len
  · exact h.acceptFinal hp len
  · exact h.acceptCtxrd hp
  · exact h.acceptCtxwr hp v

/-! ### The step units (45_sequencer.md R161) -/

/-- The phases of an absorb, which ABSORB and FINAL share (45_sequencer.md R165). -/
def inAbsorb (ph : Phase) : Bool :=
  ph == .uXorin || ph == .uB2l || inRound ph || ph == .uL2b

/-- In an absorb, OPC and PASS fit in the same way at every phase. -/
theorem Seq.fits_of_inAbsorb {q : Seq} (h : inAbsorb q.PHASE = true) :
    q.fits = ((q.OPC == .absorb && !q.PASS) || q.OPC == .final) := by
  unfold Seq.fits
  cases hq : q.PHASE <;> simp_all [inAbsorb, inRound]

/-- A unit that goes on within its command and keeps OPC, PASS, LEN and DOUT. -/
theorem Engine.Inv.advance (h : e.Inv p) (hp : e.SEQ.PHASE ≠ .idle) (hz : e.SEQ.PHASE ≠ .uZero)
    (hx : e.SEQ.PHASE ≠ .uCtxin) {r : Fin 24} {ph : Phase} (hi : ph ≠ .idle) (hpad : ph ≠ .uPad)
    (hr : inRound ph = true ∨ r = 0) (hfit : ({ e.SEQ with RND := r, PHASE := ph } : Seq).fits = true)
    (s : Bytes 200) (a : Lanes) (b : Bytes 144) :
    ({ e with S := s, A := a, BLK := b, SEQ := { e.SEQ with RND := r, PHASE := ph }, rsp := none } : Engine).Inv p :=
  .of_live { h.live hp with } rfl hi (fun hn => hr.resolve_left (by simp [hn])) hfit h.absorbLen h.fullPass
    (fun h => absurd h hpad) (fun _ _ => h.dout hz hx)

/-- A unit that goes on within an absorb. -/
theorem Engine.Inv.advance_absorb (h : e.Inv p) (hp : inAbsorb e.SEQ.PHASE = true) {r : Fin 24} {ph : Phase}
    (hph : inAbsorb ph = true) (hr : inRound ph = true ∨ r = 0) (s : Bytes 200) (a : Lanes) (b : Bytes 144) :
    ({ e with S := s, A := a, BLK := b, SEQ := { e.SEQ with RND := r, PHASE := ph }, rsp := none } : Engine).Inv p := by
  have hne : ∀ {q q' : Phase}, inAbsorb q = true → inAbsorb q' = false → q ≠ q' := by
    rintro q _ h h' rfl
    simp [h] at h'
  have hfit : ({ e.SEQ with RND := r, PHASE := ph } : Seq).fits = true := by
    rw [Seq.fits_of_inAbsorb hph, ← Seq.fits_of_inAbsorb hp]
    exact h.fits
  exact h.advance (hne hp rfl) (hne hp rfl) (hne hp rfl) (hne hph rfl) (hne hph rfl) hr hfit s a b

/-- An absorb runs for an ABSORB or a FINAL only (45_sequencer.md R165 to R167). -/
theorem Engine.Inv.opc_of_inAbsorb (h : e.Inv p) (hp : inAbsorb e.SEQ.PHASE = true) :
    e.SEQ.OPC = .absorb ∨ e.SEQ.OPC = .final := by
  have hfit := h.fits
  rw [Seq.fits_of_inAbsorb hp] at hfit
  simp only [Bool.or_eq_true, Bool.and_eq_true, beq_iff_eq] at hfit
  exact hfit.imp_left And.left

/-- After round 23 the lanes go back to bytes, before it the next round begins (45_sequencer.md R161). -/
theorem Engine.Inv.unitIota (h : e.Inv p) (hp : e.SEQ.PHASE = .uIota) : (unitIota e).Inv p := by
  have ha : inAbsorb e.SEQ.PHASE = true := by rw [hp]; rfl
  by_cases hr : e.SEQ.RND.val < 23
  · rw [unitIota_of_lt hr]
    exact h.advance_absorb ha rfl (.inl rfl) ..
  · rw [unitIota_of_eq hr]
    exact h.advance_absorb ha rfl (.inr rfl) ..

/-- U_L2B ends an ABSORB, or goes on to the second pass or the digest of a FINAL (45_sequencer.md R161). -/
theorem Engine.Inv.unitL2b (h : e.Inv p) (hp : e.SEQ.PHASE = .uL2b) : (unitL2b e).Inv p := by
  have hi : e.SEQ.PHASE ≠ .idle := by rw [hp]; decide
  have hz : e.SEQ.PHASE ≠ .uZero := by rw [hp]; decide
  have hx : e.SEQ.PHASE ≠ .uCtxin := by rw [hp]; decide
  have hr : e.SEQ.RND = 0 := h.rnd (by rw [hp]; rfl)
  obtain ho | ho := h.opc_of_inAbsorb (by rw [hp]; rfl)
  · rw [unitL2b_absorb ho]
    exact .respond_live (h.live hi) _ (h.dout hz hx)
  · cases hq : e.SEQ.PASS
    · rw [unitL2b_first ho hq]
      exact h.advance hi hz hx (by decide) (by decide) (.inr hr) (by simp [Seq.fits, ho, hq]) ..
    · rw [unitL2b_last ho hq]
      exact h.advance hi hz hx (by decide) (by decide) (.inr hr) (by simp [Seq.fits, ho, hq]) ..

/-- U_PAD runs in its domain (42_pad_final.md R113). -/
theorem Engine.Inv.unitPad (h : e.Inv p) (hp : e.SEQ.PHASE = .uPad) : (unitPad e).Inv p := by
  rw [unitPad_of_lt (h.padLen hp)]
  have hfit := h.fits
  simp only [Seq.fits, hp, Bool.and_eq_true, beq_iff_eq] at hfit
  exact h.advance (by simp [hp]) (by simp [hp]) (by simp [hp]) (by decide) (by decide)
    (.inr (h.rnd (by rw [hp]; rfl))) (by simp [Seq.fits, hfit]) ..

/-- U_NEWBLK starts the second pass, with LEN = 0 (42_pad_final.md R114). -/
theorem Engine.Inv.unitNewblk (h : e.Inv p) (hp : e.SEQ.PHASE = .uNewblk) : (unitNewblk e).Inv p := by
  have ho : e.SEQ.OPC = .final := by
    have hfit := h.fits
    simp only [Seq.fits, hp, Bool.and_eq_true, beq_iff_eq] at hfit
    exact hfit.1
  rw [unitNewblk_eq]
  exact .of_live { h.live (by simp [hp]) with } rfl (by simp) (fun _ => h.rnd (by rw [hp]; rfl)) (by simp [Seq.fits, ho])
    (by simp [ho]) (by simp) (fun _ => e.VSEL.rate_pos) (fun _ _ => h.dout (by simp [hp]) (by simp [hp]))

/-- U_EXTRACT shows the digest and zero beyond it (42_pad_final.md R115). -/
theorem Engine.Inv.unitExtract (h : e.Inv p) (hp : e.SEQ.PHASE ≠ .idle) : (unitExtract e).Inv p := by
  have htail : ∀ k (hk : k < 64), e.VSEL.dlen ≤ k → (extract e.VSEL e.S)[k] = 0 := fun k hk hd => by
    rw [extract_getElem e.VSEL e.S hk, if_neg (not_lt.mpr hd)]
  rw [unitExtract_eq]
  exact .finish_live (h.live hp) e.S htail ..

/-- Every unit that fires keeps the invariant. -/
theorem Engine.Inv.unit (h : e.Inv p) (hp : e.SEQ.PHASE ≠ .idle) : (unitOf p e.SEQ.PHASE.instr e).Inv p := by
  cases hq : e.SEQ.PHASE <;> simp only [Phase.instr, unitOf]
  case idle => exact absurd hq hp
  case uZero =>
    rw [unitZero_eq]
    exact .respond_live (h.live hp) _ (fun _ hk _ => zeroBytes_getElem hk)
  case uCtxin =>
    rw [unitCtxin_eq]
    exact .respond_live (h.live hp) _ (fun _ hk _ => zeroBytes_getElem hk)
  case uCtxout =>
    rw [unitCtxout_eq]
    exact .finish_live (h.live hp) e.S (h.dout (by simp [hq]) (by simp [hq])) ..
  case uXorin =>
    rw [unitXorin_eq]
    exact h.advance_absorb (by rw [hq]; rfl) rfl (.inr (h.rnd (by rw [hq]; rfl))) ..
  case uB2l =>
    rw [unitB2l_eq]
    exact h.advance_absorb (by rw [hq]; rfl) rfl (.inl rfl) ..
  case uTheta =>
    rw [unitTheta_eq]
    exact h.advance_absorb (by rw [hq]; rfl) rfl (.inl rfl) ..
  case uRhopi =>
    rw [unitRhopi_eq]
    exact h.advance_absorb (by rw [hq]; rfl) rfl (.inl rfl) ..
  case uChi =>
    rw [unitChi_eq]
    exact h.advance_absorb (by rw [hq]; rfl) rfl (.inl rfl) ..
  case uIota => exact h.unitIota hq
  case uL2b => exact h.unitL2b hq
  case uPad => exact h.unitPad hq
  case uExtract => exact h.unitExtract hp
  case uNewblk => exact h.unitNewblk hq

/-- Every step keeps the invariant of the engine that takes it. -/
theorem Engine.Inv.engineStep (h : e.Inv p) : (engineStep p e).Inv p := by
  unfold Machine.engineStep
  cases hr : e.rst
  case true =>
    rw [fetch_of_rst hr]
    exact .hardReset e
  case false =>
    by_cases hp : e.SEQ.PHASE = .idle
    · obtain ⟨-, -, i, hi, hf⟩ | ⟨-, -, b, -, hf⟩ | ⟨hn, hf⟩ := fetch_cases hr hp
      all_goals simp only [hf]
      · exact h.command hp hi
      · exact h.acceptIllegal hp
      · rw [unitOf_idle_of_not_offered hn]
        exact h.wait
    · rw [fetch_of_phase hr hp]
      exact h.unit hp

/-- Settles O48: the engine that steps by its step and the host's move, the others because they are not touched. -/
theorem stepKeepsInvariant : Obligations.StepKeepsInvariant := by
  intro s t h hst
  rw [step_eq] at hst
  cases hst
  intro f hf
  rw [State.after_fullBlock]
  rw [State.after_instances, List.mem_append, List.mem_cons] at hf
  have hmem : ∀ g, g ∈ s.lower ∨ g = s.self ∨ g ∈ s.upper → g.Inv s.fullBlock := fun g hg =>
    h g (by simpa [State.instances] using hg)
  obtain hf | rfl | hf := hf
  · exact hmem f (.inl hf)
  · exact (hmem _ (.inr (.inl rfl))).engineStep.hostMoves
  · exact hmem f (.inr (.inr hf))

/-- Settles O47: every engine of the system is one right after hard reset. -/
theorem invariantAtReset : Obligations.InvariantAtReset := by
  have hreset : ∀ p : FullBlockFinal, Engine.reset.Inv p := fun p => .hardReset Engine.reset
  refine ⟨fun f hf => ?_, fun n p f hf => ?_⟩
  · obtain rfl : f = Engine.reset := by simpa [State.instances, State.reset] using hf
    exact hreset _
  · obtain rfl : f = Engine.reset := by
      simp only [State.instances, State.powerOn, State.reset, List.nil_append, List.mem_cons, List.mem_replicate] at hf
      tauto
    exact hreset _

/-- Settles O11. -/
theorem resetValues : Obligations.ResetValues :=
  ⟨rfl, rfl, rfl, rfl, rfl, rfl, rfl, rfl, rfl, rfl⟩

end Sys2Proof.Machine
end
section
/-! What no host can see (10_state.md R30, R34): two engines that look alike look alike after every step. -/

namespace Sys2Proof.Machine

variable {p : FullBlockFinal} {e f : Engine}

/-! ## What surrounds an instruction -/

/-- Instances that look alike fetch the same (45_sequencer.md R160, R162). -/
theorem Engine.LooksLike.fetch_eq (h : e.LooksLike f) : e.fetch = f.fetch := by
  obtain ⟨hrst, hvalid, hcmd, -, -⟩ := h.ports
  unfold Engine.fetch Engine.fetchIdle Engine.offered Engine.cmdReady
  rw [hrst, hvalid, hcmd, h.busy, h.seq]

theorem Engine.LooksLike.hostMoves (h : e.LooksLike f) : e.hostMoves.LooksLike f.hostMoves := by
  obtain ⟨hrst, hvalid, hcmd, hblk, hctx⟩ := h.ports
  unfold Engine.hostMoves
  rw [hrst, hvalid, h.host]
  split
  · exact h
  · cases f.host with
    | nil => exact h
    | cons ev rest =>
      cases ev <;> dsimp only
      case quiet => exact { h with host := rfl, ports := ⟨rfl, rfl, hcmd, hblk, hctx⟩ }
      case rst => exact { h with host := rfl, ports := ⟨rfl, rfl, hcmd, hblk, hctx⟩ }
      case command w b c => exact { h with host := rfl, ports := ⟨rfl, rfl, rfl, rfl, rfl⟩ }

/-- Hard reset leaves nothing to tell apart (70_reset_and_hazards.md R210). -/
theorem Engine.LooksLike.hardReset (h : e.LooksLike f) : e.hardReset.LooksLike f.hardReset := by
  obtain ⟨-, hvalid, hcmd, hblk, hctx⟩ := h.ports
  have heq : e.hardReset = f.hardReset := by
    unfold Engine.hardReset
    rw [hvalid, hcmd, hblk, hctx, h.host]
  rw [heq]
  constructor <;> simp

/-- Waiting at a boundary. -/
theorem Engine.LooksLike.wait (h : e.LooksLike f) :
    ({ e with rsp := none } : Engine).LooksLike { f with rsp := none } :=
  { h with rsp := rfl }

/-! ## Responding -/

/-- After a command S has a meaning again, so it must agree there (10_state.md R30). -/
theorem Engine.LooksLike.finish (h : e.LooksLike f) (hs : e.BOUND = true → e.S = f.S) (d : BitVec 7) (v : BitVec 2)
    (c : Bytes 200) : (e.finish d v c).LooksLike (f.finish d v c) := by
  have hrest : e.atRest.response d v c = f.atRest.response d v c := by
    unfold Engine.response Engine.status
    simp [h.fault, h.cause, h.bound, h.dout]
  exact { h with
    busy := rfl
    seq := rfl
    rsp := congrArg some hrest
    sponge := fun hb _ => hs hb
    lanes := fun ha => by cases ha
    block := fun hp => by cases hp
    pad := fun hp => by cases hp
    context := fun hp => by cases hp }

/-- A command that ends with S and DOUT written alike. -/
theorem Engine.LooksLike.finish_data (h : e.LooksLike f) {s s' : Bytes 200} {x x' : Bytes 64} (hs : s = s') (hx : x = x')
    (d : BitVec 7) (v : BitVec 2) (c : Bytes 200) :
    (({ e with S := s, DOUT := x } : Engine).finish d v c).LooksLike (({ f with S := s', DOUT := x' } : Engine).finish d v c) :=
  Engine.LooksLike.finish (e := { e with S := s, DOUT := x }) (f := { f with S := s', DOUT := x' })
    { h with dout := hx, sponge := fun _ _ => hs } (fun _ => hs) d v c

/-! ## Acceptance (45_sequencer.md R162) -/

theorem Engine.LooksLike.take (h : e.LooksLike f) : e.take.LooksLike f.take :=
  { h with
    busy := rfl
    rsp := rfl
    ports := by
      obtain ⟨hrst, -, hrest⟩ := h.ports
      exact ⟨hrst, rfl, hrest⟩ }

theorem Engine.LooksLike.sponge_of_idle (h : e.LooksLike f) (hp : e.SEQ.PHASE = .idle) (hb : e.BOUND = true) : e.S = f.S :=
  h.sponge hb (by rw [hp]; rfl)

theorem Engine.LooksLike.takeFault (h : e.LooksLike f) (hp : e.SEQ.PHASE = .idle) (c : Cause) :
    (e.takeFault c).LooksLike (f.takeFault c) :=
  Engine.LooksLike.finish (e := { e with FAULT := true, CAUSE := c, DOUT := zeroBytes 64 })
    (f := { f with FAULT := true, CAUSE := c, DOUT := zeroBytes 64 })
    { h with fault := rfl, cause := rfl, dout := rfl } (h.sponge_of_idle hp) 0 0 (zeroBytes 200)

theorem Engine.LooksLike.dead_respond (h : e.LooksLike f) (hp : e.SEQ.PHASE = .idle) :
    e.take.respond.LooksLike f.take.respond :=
  h.take.finish (h.sponge_of_idle hp) 0 0 (zeroBytes 200)

/-- A dead engine answers the dead response (60_exceptions.md R189). -/
theorem accept_of_fault {nb : Bool} {chk : Engine → Option Cause} {start : Engine → Engine} (hf : e.FAULT = true) :
    e.accept nb chk start = e.take.respond :=
  if_pos hf

/-- The bound check comes next (60_exceptions.md R187). -/
theorem accept_of_unbound {nb : Bool} {chk : Engine → Option Cause} {start : Engine → Engine} (hf : e.FAULT = false)
    (hn : nb = true) (hb : e.BOUND = false) : e.accept nb chk start = e.take.takeFault .unbound := by
  simp [Engine.accept, hf, hn, hb]

/-- And then the command's own check (60_exceptions.md R187). -/
theorem accept_of_check {nb : Bool} {chk : Engine → Option Cause} {start : Engine → Engine} {c : Cause}
    (hf : e.FAULT = false) (hb : nb = true → e.BOUND = true) (hc : chk e.take = some c) :
    e.accept nb chk start = e.take.takeFault c := by
  unfold Engine.accept
  cases nb
  · simp [hf, hc]
  · simp [hf, hb rfl, hc]

/-- Acceptances look alike when their checks agree and what they start looks alike, on an engine bound where it must be. -/
theorem Engine.LooksLike.accept (h : e.LooksLike f) (hp : e.SEQ.PHASE = .idle) {nb : Bool} {chk : Engine → Option Cause}
    {start : Engine → Engine} (hchk : (nb = true → e.BOUND = true) → chk e.take = chk f.take)
    (hstart : (nb = true → e.BOUND = true) → (start e.take).LooksLike (start f.take)) :
    (e.accept nb chk start).LooksLike (f.accept nb chk start) := by
  obtain ⟨hf, heq⟩ | ⟨hf, hn, hb, heq⟩ | ⟨hf, hb, c, hc, heq⟩ | ⟨hf, hb, hc, heq⟩ := accept_cases nb chk start e
  all_goals rw [heq]
  · rw [accept_of_fault (h.fault ▸ hf)]
    exact h.dead_respond hp
  · rw [accept_of_unbound (h.fault ▸ hf) hn (h.bound ▸ hb)]
    exact h.take.takeFault hp _
  · rw [accept_of_check (h.fault ▸ hf) (h.bound ▸ hb) (hchk hb ▸ hc)]
    exact h.take.takeFault hp c
  · rw [accept_starts (h.fault ▸ hf) (h.bound ▸ hb) (hchk hb ▸ hc)]
    exact hstart hb

theorem Engine.LooksLike.acceptIllegal (h : e.LooksLike f) (hp : e.SEQ.PHASE = .idle) :
    e.acceptIllegal.LooksLike f.acceptIllegal := by
  obtain ⟨hf, heq⟩ | ⟨hf, heq⟩ := acceptIllegal_cases e <;>
    obtain ⟨hf', heq'⟩ | ⟨hf', heq'⟩ := acceptIllegal_cases f <;> rw [heq, heq']
  · exact h.dead_respond hp
  · simp [h.fault, hf'] at hf
  · simp [h.fault, hf'] at hf
  · exact h.take.takeFault hp _

/-- VSEL gets its meaning from INIT (40_variant_lifecycle.md R90); S is about to be zeroed. -/
theorem Engine.LooksLike.acceptInit (h : e.LooksLike f) (hp : e.SEQ.PHASE = .idle) (v : Variant) :
    (acceptInit v e).LooksLike (acceptInit v f) :=
  h.accept hp (fun _ => rfl) fun _ =>
    { h.take with
      bound := rfl
      vsel := fun _ => rfl
      seq := rfl
      sponge := fun _ hs => by cases hs
      lanes := fun ha => by cases ha
      block := fun hx => by cases hx
      pad := fun hx => by cases hx
      context := fun hx => by cases hx }

/-- CTXWR too, and its context comes from the port (40_variant_lifecycle.md R93). -/
theorem Engine.LooksLike.acceptCtxwr (h : e.LooksLike f) (hp : e.SEQ.PHASE = .idle) (v : Variant) :
    (acceptCtxwr v e).LooksLike (acceptCtxwr v f) := by
  obtain ⟨-, -, -, -, hctx⟩ := h.ports
  exact h.accept hp (fun _ => rfl) fun _ =>
    { h.take with
      bound := rfl
      vsel := fun _ => rfl
      seq := rfl
      sponge := fun _ hs => by cases hs
      lanes := fun ha => by cases ha
      block := fun hx => by cases hx
      pad := fun hx => by cases hx
      context := fun _ => hctx }

/-- RESET and CTXRD start a unit that needs no transient register. -/
theorem Engine.LooksLike.launch_lifecycle (h : e.LooksLike f) (hp : e.SEQ.PHASE = .idle) {ph : Phase} (o : Opc)
    (hph : ph = .uZero ∨ ph = .uCtxout) : (e.launch o false ph).LooksLike (f.launch o false ph) :=
  { h with
    seq := rfl
    sponge := fun hb _ => h.sponge_of_idle hp hb
    lanes := fun ha => by obtain rfl | rfl := hph <;> cases ha
    block := fun (hx : ph = .uXorin) => by simp [hx] at hph
    pad := fun (hx : ph = .uPad) => by simp [hx] at hph
    context := fun (hx : ph = .uCtxin) => by simp [hx] at hph }

/-- ABSORB and FINAL start with BLK from the port and LEN from the word (10_state.md R24, R26). -/
theorem Engine.LooksLike.launch_block (h : e.LooksLike f) (hp : e.SEQ.PHASE = .idle) {ph : Phase} (o : Opc) (q : Bool)
    (len : Nat) (hph : ph = .uXorin ∨ ph = .uPad) :
    ((e.loadBlock len).launch o q ph).LooksLike ((f.loadBlock len).launch o q ph) := by
  obtain ⟨-, -, -, hblk, -⟩ := h.ports
  have hsame : ∀ k (hk : k < 144), e.blkIn[k] = f.blkIn[k] := fun k hk => by rw [hblk]
  exact { h with
    seq := rfl
    sponge := fun hb _ => h.sponge_of_idle hp hb
    lanes := fun ha => by obtain rfl | rfl := hph <;> cases ha
    block := fun _ k hk _ => hsame k hk
    pad := fun _ => ⟨rfl, fun k hk _ => hsame k hk⟩
    context := fun (hx : ph = .uCtxin) => by simp [hx] at hph }

theorem Engine.LooksLike.acceptAbsorb (h : e.LooksLike f) (hp : e.SEQ.PHASE = .idle) (len : Nat) :
    (acceptAbsorb len e).LooksLike (acceptAbsorb len f) := by
  refine h.accept hp (fun hb => ?_) fun _ => h.take.launch_block hp _ _ len (.inl rfl)
  have hv : e.take.VSEL = f.take.VSEL := h.vsel (hb rfl)
  unfold absorbCheck
  rw [hv]

theorem Engine.LooksLike.acceptFinal (h : e.LooksLike f) (hp : e.SEQ.PHASE = .idle) (len : Nat) :
    (acceptFinal p len e).LooksLike (acceptFinal p len f) := by
  refine h.accept hp (fun hb => ?_) fun hb => ?_
  all_goals have hv : e.take.VSEL = f.take.VSEL := h.vsel (hb rfl)
  · unfold finalCheck
    rw [hv]
  · unfold startFinal
    rw [hv]
    by_cases hl : len = f.take.VSEL.rate
    · rw [if_pos hl, if_pos hl]
      exact h.take.launch_block hp _ _ len (.inl rfl)
    · rw [if_neg hl, if_neg hl]
      exact h.take.launch_block hp _ _ len (.inr rfl)

/-- Every command accepted at a boundary keeps engines alike. -/
theorem Engine.LooksLike.command (h : e.LooksLike f) (hp : e.SEQ.PHASE = .idle) {i : Instr} {w : CmdWord}
    (hi : decodeCommand w = .ok i) : (unitOf p i e).LooksLike (unitOf p i f) := by
  obtain ⟨v, rfl⟩ | rfl | ⟨len, rfl⟩ | ⟨len, rfl⟩ | rfl | ⟨v, rfl⟩ := decodeCommand_is_command hi
  · exact h.acceptInit hp v
  · exact h.accept (chk := noCheck) hp (fun _ => rfl) fun _ => h.take.launch_lifecycle hp .reset (.inl rfl)
  · exact h.acceptAbsorb hp len
  · exact h.acceptFinal hp len
  · exact h.accept (chk := noCheck) hp (fun _ => rfl) fun _ => h.take.launch_lifecycle hp .ctxrd (.inr rfl)
  · exact h.acceptCtxwr hp v

/-! ## The step units (45_sequencer.md R161) -/

/-- XorIn reads the block below the rate only (41_absorb.md R101). -/
theorem xorIn_congr (v : Variant) (s : Bytes 200) {b b' : Bytes 144}
    (h : ∀ k (hk : k < 144), k < v.rate → b[k] = b'[k]) : xorIn v s b = xorIn v s b' := by
  ext k hk
  by_cases hlt : k < v.rate
  · have hk' : k < 144 := lt_of_lt_of_le hlt v.rate_le
    rw [xorIn_of_lt v s b hk' hlt, xorIn_of_lt v s b' hk' hlt, h k hk' hlt]
  · rw [xorIn_of_ge v s b hk (not_lt.mp hlt), xorIn_of_ge v s b' hk (not_lt.mp hlt)]

/-- Below the rate, the padded block depends on the message bytes only (42_pad_final.md R113). -/
theorem padSteps_congr (v : Variant) {b b' : Bytes 144} {L : Nat} (h : ∀ k (hk : k < 144), k < L → b[k] = b'[k])
    {k : Nat} (hk : k < 144) (hr : k < v.rate) : (padSteps v b L)[k] = (padSteps v b' L)[k] := by
  have hz : (padZero v.rate L b)[k] = (padZero v.rate L b')[k] := by
    rw [padZero_getElem, padZero_getElem]
    by_cases hL : L ≤ k
    · rw [if_pos ⟨hL, hr⟩, if_pos ⟨hL, hr⟩]
    · rw [if_neg (fun hc => hL hc.1), if_neg (fun hc => hL hc.1), h k hk (not_le.mp hL)]
  unfold padSteps
  rw [orByte_getElem, orByte_getElem, orByte_getElem, orByte_getElem, hz]

/-- A unit that goes on: what it wrote must agree where the next phase gives it a meaning. -/
theorem Engine.LooksLike.advance (h : e.LooksLike f) {q : Seq} {s s' : Bytes 200} {a a' : Lanes} {b b' : Bytes 144}
    (hs : sLive q.PHASE = true → s = s') (ha : aLive q.PHASE = true → a = a')
    (hb : q.PHASE = .uXorin → ∀ k (hk : k < 144), k < e.VSEL.rate → b[k] = b'[k]) (hpad : q.PHASE ≠ .uPad)
    (hx : q.PHASE ≠ .uCtxin) :
    ({ e with S := s, A := a, BLK := b, SEQ := q, rsp := none } : Engine).LooksLike
      { f with S := s', A := a', BLK := b', SEQ := q, rsp := none } :=
  { h with
    seq := rfl
    rsp := rfl
    sponge := fun _ => hs
    lanes := ha
    block := hb
    pad := fun hp => absurd hp hpad
    context := fun hp => absurd hp hx }

/-- In the middle of a command VSEL has its meaning. -/
theorem Engine.LooksLike.vsel_of_running (h : e.LooksLike f) (hi : e.Inv p) (hp : e.SEQ.PHASE ≠ .idle) : e.VSEL = f.VSEL :=
  h.vsel (hi.live hp).bound

/-- And S has its own, where no lane holds it. -/
theorem Engine.LooksLike.sponge_of_running (h : e.LooksLike f) (hi : e.Inv p) (hp : e.SEQ.PHASE ≠ .idle)
    (hs : sLive e.SEQ.PHASE = true) : e.S = f.S :=
  h.sponge (hi.live hp).bound hs

/-- A unit of the round: only the lanes carry the message (44_transcoder.md R154). -/
theorem Engine.LooksLike.advance_lanes (h : e.LooksLike f) (q : Seq) (hq : aLive q.PHASE = true) (a : Lanes) :
    ({ e with A := a, SEQ := q, rsp := none } : Engine).LooksLike { f with A := a, SEQ := q, rsp := none } := by
  have hne : ∀ {ph : Phase}, aLive ph = false → q.PHASE ≠ ph := by
    rintro _ hn rfl
    simp [hq] at hn
  have hs : sLive q.PHASE = false := by
    cases hph : q.PHASE <;> simp_all [aLive, sLive]
  exact h.advance (fun hc => by simp [hs] at hc) (fun _ => rfl) (fun hx => absurd hx (hne rfl)) (hne rfl) (hne rfl)

theorem Engine.LooksLike.unitIota (h : e.LooksLike f) (hp : e.SEQ.PHASE = .uIota) : (unitIota e).LooksLike (unitIota f) := by
  have ha : e.A = f.A := h.lanes (by rw [hp]; rfl)
  by_cases hr : e.SEQ.RND.val < 23
  · rw [unitIota_of_lt hr, unitIota_of_lt (h.seq ▸ hr)]
    simp only [← h.seq, ← ha]
    exact h.advance_lanes _ rfl _
  · rw [unitIota_of_eq hr, unitIota_of_eq (h.seq ▸ hr)]
    simp only [← h.seq, ← ha]
    exact h.advance_lanes _ rfl _

theorem Engine.LooksLike.unitL2b (h : e.LooksLike f) (hi : e.Inv p) (hp : e.SEQ.PHASE = .uL2b) :
    (unitL2b e).LooksLike (unitL2b f) := by
  have ha : e.A = f.A := h.lanes (by rw [hp]; rfl)
  obtain ho | ho := hi.opc_of_inAbsorb (by rw [hp]; rfl)
  · rw [unitL2b_absorb ho, unitL2b_absorb (h.seq ▸ ho)]
    exact h.finish_data (by rw [ha]) h.dout 0 0 (zeroBytes 200)
  · cases hq : e.SEQ.PASS
    · rw [unitL2b_first ho hq, unitL2b_first (h.seq ▸ ho) (h.seq ▸ hq), ← h.seq, ← ha]
      exact h.advance (fun _ => rfl) nofun nofun nofun nofun
    · rw [unitL2b_last ho hq, unitL2b_last (h.seq ▸ ho) (h.seq ▸ hq), ← h.seq, ← ha]
      exact h.advance (fun _ => rfl) nofun nofun nofun nofun

/-- U_PAD in its domain: the message bytes agree, so the padded block does below the rate (42_pad_final.md R113). -/
theorem Engine.LooksLike.unitPad (h : e.LooksLike f) (hi : e.Inv p) (hp : e.SEQ.PHASE = .uPad) :
    (unitPad e).LooksLike (unitPad f) := by
  have hne : e.SEQ.PHASE ≠ .idle := by rw [hp]; decide
  have hv : e.VSEL = f.VSEL := h.vsel_of_running hi hne
  have hs : e.S = f.S := h.sponge_of_running hi hne (by rw [hp]; rfl)
  obtain ⟨hlen, hblk⟩ := h.pad hp
  have hlt : e.LEN.toNat < e.VSEL.rate := hi.padLen hp
  rw [unitPad_of_lt hlt, unitPad_of_lt (hlen ▸ hv ▸ hlt), ← h.seq]
  refine h.advance (fun _ => hs) nofun (fun _ k hk hr => ?_) nofun nofun
  rw [← hv, ← hlen]
  exact padSteps_congr e.VSEL hblk hk hr

/-- U_NEWBLK: no byte of BLK has a meaning with LEN = 0 (42_pad_final.md R114). -/
theorem Engine.LooksLike.unitNewblk (h : e.LooksLike f) (hi : e.Inv p) (hp : e.SEQ.PHASE = .uNewblk) :
    (unitNewblk e).LooksLike (unitNewblk f) := by
  have hs : e.S = f.S := h.sponge_of_running hi (by rw [hp]; decide) (by rw [hp]; rfl)
  rw [unitNewblk_eq, unitNewblk_eq, ← h.seq]
  exact { h with
    seq := rfl
    rsp := rfl
    sponge := fun _ _ => hs
    lanes := nofun
    block := nofun
    pad := fun _ => ⟨rfl, fun k _ hk => absurd hk k.not_lt_zero⟩
    context := nofun }

theorem Engine.LooksLike.unitXorin (h : e.LooksLike f) (hi : e.Inv p) (hp : e.SEQ.PHASE = .uXorin) :
    (unitXorin e).LooksLike (unitXorin f) := by
  have hne : e.SEQ.PHASE ≠ .idle := by rw [hp]; decide
  have hs : xorIn e.VSEL e.S e.BLK = xorIn f.VSEL f.S f.BLK := by
    rw [← h.vsel_of_running hi hne, ← h.sponge_of_running hi hne (by rw [hp]; rfl)]
    exact xorIn_congr e.VSEL e.S (h.block hp)
  rw [unitXorin_eq, unitXorin_eq, ← h.seq]
  exact h.advance (fun _ => hs) nofun nofun nofun nofun

theorem Engine.LooksLike.unitB2l (h : e.LooksLike f) (hi : e.Inv p) (hp : e.SEQ.PHASE = .uB2l) :
    (unitB2l e).LooksLike (unitB2l f) := by
  have hs : b2l e.S = b2l f.S := by
    rw [h.sponge_of_running hi (by rw [hp]; decide) (by rw [hp]; rfl)]
  rw [unitB2l_eq, unitB2l_eq, ← h.seq, ← hs]
  exact h.advance_lanes _ rfl _

theorem Engine.LooksLike.unitExtract (h : e.LooksLike f) (hi : e.Inv p) (hp : e.SEQ.PHASE = .uExtract) :
    (unitExtract e).LooksLike (unitExtract f) := by
  have hne : e.SEQ.PHASE ≠ .idle := by rw [hp]; decide
  have hv : e.VSEL = f.VSEL := h.vsel_of_running hi hne
  have hs : e.S = f.S := h.sponge_of_running hi hne (by rw [hp]; rfl)
  have hd : BitVec.ofNat 7 e.VSEL.dlen = BitVec.ofNat 7 f.VSEL.dlen := by rw [hv]
  rw [unitExtract_eq, unitExtract_eq, ← hd]
  exact h.finish_data hs (by rw [hv, hs]) _ 0 (zeroBytes 200)

theorem Engine.LooksLike.unitCtxout (h : e.LooksLike f) (hi : e.Inv p) (hp : e.SEQ.PHASE = .uCtxout) :
    (unitCtxout e).LooksLike (unitCtxout f) := by
  have hne : e.SEQ.PHASE ≠ .idle := by rw [hp]; decide
  have hs : e.S = f.S := h.sponge_of_running hi hne (by rw [hp]; rfl)
  rw [unitCtxout_eq, unitCtxout_eq, ← h.vsel_of_running hi hne, ← hs]
  exact h.finish (fun _ => hs) _ _ _

/-- Every unit that fires keeps engines alike. -/
theorem Engine.LooksLike.unit (h : e.LooksLike f) (hi : e.Inv p) (hp : e.SEQ.PHASE ≠ .idle) :
    (unitOf p e.SEQ.PHASE.instr e).LooksLike (unitOf p e.SEQ.PHASE.instr f) := by
  cases hq : e.SEQ.PHASE <;> simp only [Phase.instr, unitOf]
  case idle => exact absurd hq hp
  case uZero =>
    rw [unitZero_eq, unitZero_eq]
    exact h.finish_data rfl rfl 0 0 (zeroBytes 200)
  case uCtxin =>
    rw [unitCtxin_eq, unitCtxin_eq]
    exact h.finish_data (h.context hq) rfl 0 0 (zeroBytes 200)
  case uCtxout => exact h.unitCtxout hi hq
  case uXorin => exact h.unitXorin hi hq
  case uB2l => exact h.unitB2l hi hq
  case uTheta =>
    rw [unitTheta_eq, unitTheta_eq, ← h.seq, ← h.lanes (by rw [hq]; rfl)]
    exact h.advance_lanes _ rfl _
  case uRhopi =>
    rw [unitRhopi_eq, unitRhopi_eq, ← h.seq, ← h.lanes (by rw [hq]; rfl)]
    exact h.advance_lanes _ rfl _
  case uChi =>
    rw [unitChi_eq, unitChi_eq, ← h.seq, ← h.lanes (by rw [hq]; rfl)]
    exact h.advance_lanes _ rfl _
  case uIota => exact h.unitIota hq
  case uL2b => exact h.unitL2b hi hq
  case uPad => exact h.unitPad hi hq
  case uExtract => exact h.unitExtract hi hq
  case uNewblk => exact h.unitNewblk hi hq

/-! ## The step -/

/-- A step keeps engines alike: they fetch the same, and what is fetched keeps them so. -/
theorem Engine.LooksLike.engineStep (h : e.LooksLike f) (hi : e.Inv p) :
    (engineStep p e).LooksLike (engineStep p f) := by
  unfold Machine.engineStep
  rw [← h.fetch_eq]
  cases hr : e.rst
  case true =>
    rw [fetch_of_rst hr]
    exact h.hardReset
  case false =>
    by_cases hp : e.SEQ.PHASE = .idle
    · obtain ⟨-, -, i, hd, hf⟩ | ⟨-, -, b, -, hf⟩ | ⟨hn, hf⟩ := fetch_cases hr hp
      all_goals simp only [hf]
      · exact h.command hp hd
      · exact h.acceptIllegal hp
      · obtain ⟨-, hvalid, -⟩ := h.ports
        rw [unitOf_idle_of_not_offered hn, unitOf_idle_of_not_offered (by rw [← hvalid, ← h.busy]; exact hn)]
        exact h.wait
    · rw [fetch_of_phase hr hp]
      exact h.unit hi hp

/-- Settles O55: what the next step leaves of both engines looks alike, so everything after it does. -/
theorem scratchIsUnobservable : Obligations.ScratchIsUnobservable := by
  intro s f hs _ h
  exact ⟨_, _, step_eq s, step_eq { s with self := f }, (h.engineStep hs).hostMoves⟩

end Sys2Proof.Machine
end
section
/-! What instructions write (10_state.md R20 to R26) and what a response can carry (R32). -/

namespace Sys2Proof.Machine

variable {p : FullBlockFinal} {e f : Engine}

/-! ## IDLE as an instruction (45_sequencer.md R162) -/

/-- A word decodes to a command, never to IDLE. -/
theorem decodeCommand_ne_idle {w : CmdWord} {i : Instr} (h : decodeCommand w = .ok i) : i ≠ .idle := by
  rintro rfl
  simpa using decodeCommand_is_command h

/-- A legal word offered runs as its command. -/
theorem acceptWord_of_ok {i : Instr} (h : decodeCommand e.cmd = .ok i) : acceptWord p e = unitOf p i e := by
  unfold acceptWord
  rw [h]
  obtain ⟨v, rfl⟩ | rfl | ⟨len, rfl⟩ | ⟨len, rfl⟩ | rfl | ⟨v, rfl⟩ := decodeCommand_is_command h <;> rfl

theorem acceptWord_of_error {b : BadCode} (h : decodeCommand e.cmd = .error b) : acceptWord p e = e.acceptIllegal := by
  unfold acceptWord
  rw [h]

/-- IDLE waits, or accepts what is offered: a command or an illegal word. -/
theorem unitIdle_cases (p : FullBlockFinal) (e : Engine) :
    unitIdle p e = { e with rsp := none } ∨
    (e.cmdValid = true ∧ e.BUSY = false ∧
      ((∃ i, decodeCommand e.cmd = .ok i ∧ unitIdle p e = unitOf p i e) ∨ unitIdle p e = e.acceptIllegal)) := by
  by_cases ho : e.offered = true
  · have heq : unitIdle p e = acceptWord p e := if_pos ho
    have hport : e.cmdValid = true ∧ e.BUSY = false := by simpa [Engine.offered, Engine.cmdReady] using ho
    refine .inr ⟨hport.1, hport.2, ?_⟩
    rw [heq]
    cases hd : decodeCommand e.cmd with
    | ok i => exact .inl ⟨i, rfl, acceptWord_of_ok hd⟩
    | error b => exact .inr (acceptWord_of_error hd)
  · exact .inl (if_neg ho)

/-! ## Writers (10_state.md R20, R21, R23 to R26) -/

/-- The registers an instruction other than IDLE can change. -/
structure Writes (i : Instr) (e f : Engine) : Prop where
  S : f.S ≠ e.S → i = .uZero ∨ i = .uXorin ∨ i = .uL2b ∨ i = .uCtxin
  A : f.A ≠ e.A → i = .uB2l ∨ i = .uTheta ∨ i = .uRhopi ∨ i = .uChi ∨ i = .uIota
  VSEL : f.VSEL ≠ e.VSEL → ∃ v, i = .init v ∨ i = .ctxwr v
  BLK : f.BLK ≠ e.BLK → (∃ n, i = .absorb n ∨ i = .final n) ∨ i = .uPad
  LEN : f.LEN ≠ e.LEN → (∃ n, i = .absorb n ∨ i = .final n) ∨ i = .uNewblk
  DOUT : f.DOUT ≠ e.DOUT → i = .uExtract ∨ i = .uZero ∨ i = .uCtxin ∨ (e.FAULT = false ∧ f.FAULT = true)

/-- What accepting a command keeps: S and A, and DOUT but for fault entry (60_exceptions.md R184). -/
structure AcceptKeeps (e f : Engine) : Prop where
  S : f.S = e.S
  A : f.A = e.A
  DOUT : f.DOUT ≠ e.DOUT → e.FAULT = false ∧ f.FAULT = true

theorem AcceptKeeps.of_eq (hs : f.S = e.S) (ha : f.A = e.A) (hd : f.DOUT = e.DOUT) : AcceptKeeps e f :=
  ⟨hs, ha, fun h => absurd hd h⟩

theorem AcceptKeeps.respond : AcceptKeeps e e.take.respond := .of_eq rfl rfl rfl

theorem AcceptKeeps.takeFault (hf : e.FAULT = false) (c : Cause) : AcceptKeeps e (e.take.takeFault c) :=
  ⟨rfl, rfl, fun _ => ⟨hf, rfl⟩⟩

theorem AcceptKeeps.accept {nb : Bool} {chk : Engine → Option Cause} {start : Engine → Engine}
    (hstart : AcceptKeeps e (start e.take)) : AcceptKeeps e (e.accept nb chk start) := by
  obtain ⟨-, heq⟩ | ⟨hf, -, -, heq⟩ | ⟨hf, -, c, -, heq⟩ | ⟨-, -, -, heq⟩ := accept_cases nb chk start e
  all_goals rw [heq]
  · exact .respond
  · exact .takeFault hf _
  · exact .takeFault hf c
  · exact hstart

theorem AcceptKeeps.acceptIllegal : AcceptKeeps e e.acceptIllegal := by
  obtain ⟨-, heq⟩ | ⟨hf, heq⟩ := acceptIllegal_cases e
  all_goals rw [heq]
  · exact .respond
  · exact .takeFault hf _

/-- A register that responding and fault entry keep changes at acceptance only where the command's start changes it. -/
theorem accept_keeps_view {α : Type} (view : Engine → α) {nb : Bool} {chk : Engine → Option Cause}
    {start : Engine → Engine} (hrespond : view e.take.respond = view e)
    (hfault : ∀ c, view (e.take.takeFault c) = view e) (hstart : view (start e.take) = view e) : view (e.accept nb chk start) = view e := by
  obtain ⟨-, heq⟩ | ⟨-, -, -, heq⟩ | ⟨-, -, c, -, heq⟩ | ⟨-, -, -, heq⟩ := accept_cases nb chk start e
  all_goals rw [heq]
  · exact hrespond
  · exact hfault _
  · exact hfault c
  · exact hstart

theorem accept_VSEL {nb : Bool} {chk : Engine → Option Cause} {start : Engine → Engine}
    (h : (start e.take).VSEL = e.VSEL) : (e.accept nb chk start).VSEL = e.VSEL :=
  accept_keeps_view Engine.VSEL rfl (fun _ => rfl) h

theorem accept_BLK {nb : Bool} {chk : Engine → Option Cause} {start : Engine → Engine}
    (h : (start e.take).BLK = e.BLK) : (e.accept nb chk start).BLK = e.BLK :=
  accept_keeps_view Engine.BLK rfl (fun _ => rfl) h

theorem accept_LEN {nb : Bool} {chk : Engine → Option Cause} {start : Engine → Engine}
    (h : (start e.take).LEN = e.LEN) : (e.accept nb chk start).LEN = e.LEN :=
  accept_keeps_view Engine.LEN rfl (fun _ => rfl) h

/-- What a FINAL's start writes: BLK, LEN and SEQ (45_sequencer.md R162). -/
theorem startFinal_eq (len : Nat) (e : Engine) :
    startFinal len e = { e with BLK := e.blkIn, LEN := BitVec.ofNat 8 len, SEQ := (startFinal len e).SEQ } := by
  unfold startFinal
  split <;> rfl

/-- An acceptance writes neither S nor A. -/
theorem AcceptKeeps.writes {i : Instr} (h : AcceptKeeps e f) (hv : f.VSEL ≠ e.VSEL → ∃ v, i = .init v ∨ i = .ctxwr v)
    (hb : f.BLK ≠ e.BLK → ∃ n, i = .absorb n ∨ i = .final n)
    (hl : f.LEN ≠ e.LEN → ∃ n, i = .absorb n ∨ i = .final n) :
    Writes i e f where
  S hs := absurd h.S hs
  A ha := absurd h.A ha
  VSEL := hv
  BLK hn := .inl (hb hn)
  LEN hn := .inl (hl hn)
  DOUT hd := .inr (.inr (.inr (h.DOUT hd)))

/-- What every instruction but IDLE writes. -/
theorem unitOf_writes {i : Instr} (hi : i ≠ .idle) : Writes i e (unitOf p i e) := by
  cases i <;> simp only [unitOf]
  case idle => exact absurd rfl hi
  case init v =>
    exact (AcceptKeeps.accept (.of_eq rfl rfl rfl)).writes (fun _ => ⟨v, .inl rfl⟩) (absurd (accept_BLK rfl))
      (absurd (accept_LEN rfl))
  case ctxwr v =>
    exact (AcceptKeeps.accept (.of_eq rfl rfl rfl)).writes (fun _ => ⟨v, .inr rfl⟩) (absurd (accept_BLK rfl))
      (absurd (accept_LEN rfl))
  case reset =>
    exact (AcceptKeeps.accept (.of_eq rfl rfl rfl)).writes (absurd (accept_VSEL rfl)) (absurd (accept_BLK rfl))
      (absurd (accept_LEN rfl))
  case ctxrd =>
    exact (AcceptKeeps.accept (.of_eq rfl rfl rfl)).writes (absurd (accept_VSEL rfl)) (absurd (accept_BLK rfl))
      (absurd (accept_LEN rfl))
  case absorb len =>
    exact (AcceptKeeps.accept (.of_eq rfl rfl rfl)).writes (absurd (accept_VSEL rfl)) (fun _ => ⟨len, .inl rfl⟩)
      (fun _ => ⟨len, .inl rfl⟩)
  case final len =>
    refine (AcceptKeeps.accept ?_).writes (absurd (accept_VSEL ?_)) (fun _ => ⟨len, .inr rfl⟩) (fun _ => ⟨len, .inr rfl⟩)
    all_goals rw [startFinal_eq]
    · exact .of_eq rfl rfl rfl
    · rfl
  case uZero => constructor <;> simp [unitZero_eq]
  case uXorin => constructor <;> simp [unitXorin_eq]
  case uB2l => constructor <;> simp [unitB2l_eq]
  case uTheta => constructor <;> simp [unitTheta_eq]
  case uRhopi => constructor <;> simp [unitRhopi_eq]
  case uChi => constructor <;> simp [unitChi_eq]
  case uIota =>
    by_cases hr : e.SEQ.RND.val < 23
    · constructor <;> simp [unitIota_of_lt hr]
    · constructor <;> simp [unitIota_of_eq hr]
  case uL2b =>
    rw [unitL2b_frame]
    constructor <;> simp
  case uPad => constructor <;> simp [unitPad]
  case uExtract => constructor <;> simp [unitExtract_eq]
  case uNewblk => constructor <;> simp [unitNewblk_eq]
  case uCtxout => constructor <;> simp [unitCtxout_eq]
  case uCtxin => constructor <;> simp [unitCtxin_eq]

/-- No command writes S or A, and none DOUT but by a fault. -/
theorem Writes.acceptKeeps {i : Instr} {w : CmdWord} (h : Writes i e f) (hi : decodeCommand w = .ok i) :
    AcceptKeeps e f := by
  obtain ⟨v, rfl⟩ | rfl | ⟨len, rfl⟩ | ⟨len, rfl⟩ | rfl | ⟨v, rfl⟩ := decodeCommand_is_command hi
  all_goals exact ⟨by simpa using h.S, by simpa using h.A, by simpa using h.DOUT⟩

/-- IDLE writes a register only where it accepts an offered command, and then what an acceptance can. -/
theorem unitIdle_keeps (p : FullBlockFinal) (e : Engine) :
    AcceptKeeps e (unitIdle p e) ∧
    ((e.cmdValid = true ∧ e.BUSY = false) ∨
      ((unitIdle p e).VSEL = e.VSEL ∧ (unitIdle p e).BLK = e.BLK ∧ (unitIdle p e).LEN = e.LEN)) := by
  obtain heq | ⟨hv, hb, ⟨i, hd, heq⟩ | heq⟩ := unitIdle_cases p e
  all_goals rw [heq]
  · exact ⟨.of_eq rfl rfl rfl, .inr ⟨rfl, rfl, rfl⟩⟩
  · exact ⟨(unitOf_writes (decodeCommand_ne_idle hd)).acceptKeeps hd, .inl ⟨hv, hb⟩⟩
  · exact ⟨.acceptIllegal, .inl ⟨hv, hb⟩⟩

/-- Settles O59: IDLE by what it can accept, every other instruction by what it writes. -/
theorem registerWriters : Obligations.RegisterWriters := by
  intro i s t h
  rw [exec_eq] at h
  cases h
  by_cases hi : i = .idle
  · subst hi
    obtain ⟨hk, hw⟩ := unitIdle_keeps s.fullBlock s.self
    refine ⟨absurd hk.S, absurd hk.A, fun h => .inr ⟨rfl, ?_⟩, fun h => .inr (.inr ⟨rfl, ?_⟩),
      fun h => .inr (.inr ⟨rfl, ?_⟩), fun h => .inr (.inr (.inr (hk.DOUT h))), rfl, rfl, rfl, rfl⟩
    · exact hw.resolve_right fun ⟨hvsel, _, _⟩ => h hvsel
    · exact hw.resolve_right fun ⟨_, hblk, _⟩ => h hblk
    · exact hw.resolve_right fun ⟨_, _, hlen⟩ => h hlen
  · have hw : Writes i s.self (unitOf s.fullBlock i s.self) := unitOf_writes hi
    exact ⟨hw.S, hw.A, fun h => .inl (hw.VSEL h), fun h => (hw.BLK h).imp_right .inl, fun h => (hw.LEN h).imp_right .inl,
      hw.DOUT, rfl, rfl, rfl, rfl⟩

/-! ## Responses (10_state.md R32) -/

/-- Every response that stands was raised by responding. -/
def Engine.Responds (e : Engine) : Prop :=
  ∀ r, e.rsp = some r → ∃ (g : Engine) (d : BitVec 7) (v : BitVec 2) (c : Bytes 200), r = g.response d v c

theorem Engine.Responds.of_none (h : e.rsp = none) : e.Responds := fun r hr => by
  rw [h] at hr
  cases hr

theorem Engine.Responds.finish (e : Engine) (d : BitVec 7) (v : BitVec 2) (c : Bytes 200) : (e.finish d v c).Responds :=
  fun _ hr => ⟨e.atRest, d, v, c, (Option.some.inj hr).symm⟩

theorem Engine.Responds.respond (e : Engine) : e.respond.Responds := .finish e _ _ _

theorem Engine.Responds.goTo (ph : Phase) (e : Engine) : (e.goTo ph).Responds := .of_none rfl

theorem Engine.Responds.goToStray (ph : Phase) (e : Engine) : (e.goToStray ph).Responds := by
  unfold Engine.goToStray
  split
  · exact .respond e
  · exact .goTo ph e

theorem Engine.Responds.accept {nb : Bool} {chk : Engine → Option Cause} {start : Engine → Engine}
    (hstart : (start e.take).rsp = none) : (e.accept nb chk start).Responds := by
  obtain ⟨-, heq⟩ | ⟨-, -, -, heq⟩ | ⟨-, -, c, -, heq⟩ | ⟨-, -, -, heq⟩ := accept_cases nb chk start e
  all_goals rw [heq]
  · exact .respond _
  · exact .respond _
  · exact .respond _
  · exact .of_none hstart

theorem Engine.Responds.acceptIllegal : e.acceptIllegal.Responds := by
  obtain ⟨-, heq⟩ | ⟨-, heq⟩ := acceptIllegal_cases e
  all_goals rw [heq]
  · exact .respond _
  · exact .respond _

/-- U_L2B, whatever OPC and PASS are. -/
theorem Engine.Responds.unitL2b (e : Engine) : (unitL2b e).Responds := by
  unfold Machine.unitL2b Engine.afterAbsorb
  split
  · exact .respond _
  · exact .goTo _ _
  · exact .goTo _ _
  · exact .goToStray _ _

theorem Engine.Responds.unitOf_of_ne_idle {i : Instr} (hi : i ≠ .idle) : (unitOf p i e).Responds := by
  cases i <;> simp only [unitOf]
  case idle => exact absurd rfl hi
  case init v => exact .accept rfl
  case reset => exact .accept rfl
  case absorb len => exact .accept rfl
  case final len => exact .accept (by rw [startFinal_eq]; rfl)
  case ctxrd => exact .accept rfl
  case ctxwr v => exact .accept rfl
  case uZero => exact .respond _
  case uCtxin => exact .respond _
  case uCtxout => exact .finish e _ _ _
  case uExtract => exact .finish _ _ _ _
  case uL2b => exact .unitL2b e
  case uIota =>
    by_cases hr : e.SEQ.RND.val < 23
    · exact .of_none (by rw [unitIota_of_lt hr])
    · exact .of_none (by rw [unitIota_of_eq hr])
  all_goals exact .of_none rfl

theorem Engine.Responds.unitOf (i : Instr) : (unitOf p i e).Responds := by
  by_cases hi : i = .idle
  · subst hi
    change (unitIdle p e).Responds
    obtain heq | ⟨-, -, ⟨i, hd, heq⟩ | heq⟩ := unitIdle_cases p e
    all_goals rw [heq]
    · exact .of_none rfl
    · exact .unitOf_of_ne_idle (decodeCommand_ne_idle hd)
    · exact .acceptIllegal
  · exact .unitOf_of_ne_idle hi

theorem Engine.Responds.engineStep (p : FullBlockFinal) (e : Engine) : (engineStep p e).Responds := by
  unfold Machine.engineStep
  cases e.fetch with
  | hardReset => exact .of_none rfl
  | illegal => exact .acceptIllegal
  | run i => exact .unitOf i

/-- With FAULT in its STATUS a response carries nothing else (10_state.md R32). -/
theorem response_empty_of_faultBit {d : BitVec 7} {v : BitVec 2} {c : Bytes 200}
    (h : (e.response d v c).status.getLsbD 2 = true) :
    (e.response d v c).rspDlen = 0 ∧ (e.response d v c).dout = zeroBytes 64 ∧ (e.response d v c).ctxVsel = 0 ∧
      (e.response d v c).ctxOut = zeroBytes 200 := by
  have hf : e.FAULT = true := by rwa [Engine.response_status, status_faultBit] at h
  rw [response_of_fault hf]
  exact ⟨rfl, rfl, rfl, rfl⟩

/-- Under the invariant a response's status is success or a fault's (30_encoding.md R77). -/
theorem Engine.Inv.response_status (h : e.Inv p) {r : Response} (hr : e.rsp = some r) :
    r.status = 0x01 ∨ ∃ c b, c ≠ Cause.none ∧ r.status = c.code ++ 0x2#3 ++ BitVec.ofBool b := by
  obtain ⟨hp, hst, -, hbound⟩ := h.response r hr
  obtain ⟨-, hb⟩ := h.at_boundary hp
  rw [hst]
  cases hf : e.FAULT with
  | true => exact .inr ⟨e.CAUSE, e.BOUND, h.cause.mp hf, status_of_fault hf hb⟩
  | false => exact .inl (status_of_ok hf hb (hbound.resolve_right (by simp [hf])) (h.cause_of_ok hf))

/-- Settles O24: a response is raised by responding, and the step keeps the invariant. -/
theorem responsesAreOkOrEmpty : Obligations.ResponsesAreOkOrEmpty := by
  intro s
  refine ⟨engineStep s.fullBlock s.self, step_eq s, fun r hr => ⟨fun hbit => ?_, fun h => ?_⟩⟩
  · obtain ⟨g, d, v, c, rfl⟩ := Engine.Responds.engineStep s.fullBlock s.self r hr
    exact response_empty_of_faultBit hbit
  · exact h.engineStep.response_status hr

end Sys2Proof.Machine
end

section
/-! The memory (20_memory.md): where each bit of a lane stands in S (R52), and the order of steps of different engines, which does
not matter (R60). -/

namespace Sys2Proof.Machine

/-- Settles O42: a lane is a little-endian read of its eight bytes, bit by bit. -/
theorem bitLevelLayout : Obligations.BitLevelLayout := by
  intro s x y z
  have hk : 8 * (5 * y.val + x.val) + z.val / 8 = 40 * y.val + 8 * x.val + z.val / 8 := by omega
  rw [b2l_getElem s (by omega), memRead8_getLsbD s _ _ z.isLt]
  simp only [hk]

/-! ## Engines of one system (60_exceptions.md R200) -/

@[simp] theorem State.focus_turns (k : Nat) (s : State) : (s.focus k).turns = s.turns := by
  unfold State.focus
  split <;> rfl

/-- What runs on engine k changes that engine and no other. -/
theorem State.instances_onSelf_focus (f : Engine → Engine) {s : State} {k : Nat} (hk : k < s.instances.length) :
    ((s.focus k).onSelf f).instances = s.instances.modify k f := by
  unfold State.focus
  rw [List.modify_eq_take_cons_drop hk, List.drop_eq_getElem_cons hk]
  rfl

/-- The state after engine k has taken a step, with no turn named after it. -/
def State.stepAt (k : Nat) (s : State) : State := (s.focus k).onSelf (engineTurn s.fullBlock)

theorem step_focus {s : State} (h : s.turns = []) (k : Nat) : step (s.focus k) = .next (s.stepAt k) := by
  rw [step_of_nil ((s.focus_turns k).trans h), s.focus_fullBlock k]
  rfl

@[simp] theorem State.stepAt_turns (k : Nat) (s : State) : (s.stepAt k).turns = s.turns := s.focus_turns k

@[simp] theorem State.stepAt_fullBlock (k : Nat) (s : State) : (s.stepAt k).fullBlock = s.fullBlock := s.focus_fullBlock k

theorem State.stepAt_instances {s : State} {k : Nat} (hk : k < s.instances.length) :
    (s.stepAt k).instances = s.instances.modify k (engineTurn s.fullBlock) :=
  State.instances_onSelf_focus _ hk

/-- Two engines, one step of each: every engine after both steps. -/
theorem State.stepAt_stepAt_instances {s : State} {i j : Nat} (hi : i < s.instances.length) (hj : j < s.instances.length) :
    ((s.stepAt i).stepAt j).instances =
      (s.instances.modify i (engineTurn s.fullBlock)).modify j (engineTurn s.fullBlock) := by
  have hj' : j < (s.stepAt i).instances.length := by rwa [State.stepAt_instances hi, List.length_modify]
  rw [State.stepAt_instances hj', State.stepAt_instances hi, State.stepAt_fullBlock]

/-- Settles O57: each step changes its own engine only, and changes at different places of the list commute. -/
theorem interleavingImmaterial : Obligations.InterleavingImmaterial := by
  intro s i j ht hij hi hj
  have hnil : ∀ k, (s.stepAt k).turns = [] := fun k => (s.stepAt_turns k).trans ht
  refine ⟨_, _, _, _, step_focus ht i, step_focus (hnil i) j, step_focus ht j, step_focus (hnil j) i, ?_⟩
  rw [State.stepAt_stepAt_instances hi hj, State.stepAt_stepAt_instances hj hi]
  exact List.modify_modify_ne _ _ _ hij

end Sys2Proof.Machine
end

section
/-! Padding and finalization as functions (42_pad_final.md): U_PAD's steps give PadF (R113), and what FinalF is with a last block below
the rate and with a full one (R111, R112). -/

namespace Sys2Proof.Machine

variable (v : Variant) (s : Bytes 200) (b : Bytes 144)

theorem Variant.suffix_eq : v.suffix = 0x06 := by cases v <;> rfl

/-- PadF, byte by byte. -/
theorem padF_getElem (L : Nat) {k : Nat} (hk : k < 144) :
    (padF v b L)[k] =
      if k < L then b[k]
      else if k = L ∧ L < v.rate - 1 then 0x06
      else if L < k ∧ k < v.rate - 1 then 0x00
      else if k = v.rate - 1 ∧ L < v.rate - 1 then 0x80
      else if k = v.rate - 1 ∧ L = v.rate - 1 then 0x86
      else b[k] := by
  simp [padF]

/-- U_PAD's three steps give PadF: below L, at L, between L and the last byte of the block, at that byte, past it. -/
theorem padSteps_eq_padF {L : Nat} (hL : L < v.rate) : padSteps v b L = padF v b L := by
  refine Vector.ext fun k hk => ?_
  rw [padF_getElem, padSteps, orByte_getElem, orByte_getElem, padZero_getElem, Variant.suffix_eq]
  obtain h | ⟨h, h'⟩ | ⟨h, h'⟩ | ⟨h, h'⟩ | ⟨h, h'⟩ | h : k < L ∨ (k = L ∧ L < v.rate - 1) ∨ (k = L ∧ L = v.rate - 1) ∨
      (L < k ∧ k < v.rate - 1) ∨ (L < k ∧ k = v.rate - 1) ∨ v.rate ≤ k := by omega
  all_goals simp (disch := omega) only [if_pos, if_neg, BitVec.reduceOr, BitVec.ofNat_eq_ofNat]

theorem absorbF_congr {b b' : Bytes 144} (h : ∀ k (hk : k < 144), k < v.rate → b[k] = b'[k]) :
    absorbF v s b = absorbF v s b' :=
  congrArg keccakP (xorIn_congr v s h)

/-- FinalF of a last block below the rate: one absorb of the padded block (R112). -/
theorem finalF_of_lt {len : Nat} (h : len < v.rate) :
    finalF v s b len = (absorbF v s (padSteps v b len), extract v (absorbF v s (padSteps v b len))) := by
  simp only [finalF, if_neg h.ne, padSteps_eq_padF v b h]

/-- FinalF of a full block absorbs it and finalizes nothing, whatever block stands there then (R111, R112). -/
theorem finalF_rate (b' : Bytes 144) : finalF v s b v.rate = finalF v (absorbF v s b) b' 0 := by
  have hempty : finalF v s b v.rate = finalF v (absorbF v s b) (zeroBytes 144) 0 := by
    simp [finalF, v.rate_pos.ne]
  have hpad : absorbF v (absorbF v s b) (padSteps v (zeroBytes 144) 0) = absorbF v (absorbF v s b) (padSteps v b' 0) :=
    absorbF_congr v _ fun k hk hr => padSteps_congr v (fun _ _ h0 => absurd h0 (Nat.not_lt_zero _)) hk hr
  rw [hempty, finalF_of_lt v _ _ v.rate_pos, finalF_of_lt v _ _ v.rate_pos, hpad]

end Sys2Proof.Machine
end

section
/-! A running command (45_sequencer.md R160 to R167): its units leave the ports alone, each step brings it one step nearer to its
response, and what an ABSORB and a FINAL have done when they respond. -/

namespace Sys2Proof.Machine

variable {p : FullBlockFinal} {e f : Engine}

/-! ## The ports (10_state.md R31) -/

/-- What stands on an engine's input ports, and what the host has still to do on them. -/
def Engine.ports (e : Engine) : Bool × Bool × CmdWord × Bytes 144 × Bytes 200 × List HostEvent :=
  (e.rst, e.cmdValid, e.cmd, e.blkIn, e.ctxIn, e.host)

theorem ports_eq_iff : f.ports = e.ports ↔
    f.rst = e.rst ∧ f.cmdValid = e.cmdValid ∧ f.cmd = e.cmd ∧ f.blkIn = e.blkIn ∧ f.ctxIn = e.ctxIn ∧ f.host = e.host := by
  simp only [Engine.ports, Prod.mk.injEq]

/-- No unit touches the ports (70_reset_and_hazards.md R223). -/
theorem unitOf_ports {ph : Phase} (hp : ph ≠ .idle) : (unitOf p ph.instr e).ports = e.ports := by
  rw [ports_eq_iff]
  cases ph <;> simp only [Phase.instr, unitOf]
  case idle => exact absurd rfl hp
  case uIota =>
    by_cases hr : e.SEQ.RND.val < 23
    · simp [unitIota_of_lt hr]
    · simp [unitIota_of_eq hr]
  case uL2b => rw [unitL2b_frame]; simp
  case uPad => simp [unitPad]
  all_goals simp [unitZero_eq, unitXorin_eq, unitB2l_eq, unitTheta_eq, unitRhopi_eq, unitChi_eq, unitExtract_eq,
    unitNewblk_eq, unitCtxout_eq, unitCtxin_eq]

/-- The host waits with what it offers, or has nothing more to do (log 7). -/
def Engine.HostStill (e : Engine) : Prop := e.cmdValid = true ∨ e.host = []

theorem Engine.HostStill.of_ports (h : e.HostStill) (hq : f.ports = e.ports) : f.HostStill := by
  obtain ⟨-, hv, -, -, -, hh⟩ := ports_eq_iff.mp hq
  unfold Engine.HostStill
  rwa [hv, hh]

theorem Engine.hostMoves_of_still (h : e.HostStill) : e.hostMoves = e := by
  obtain hv | hh := h
  · exact Engine.hostMoves_of_pending (.inl hv)
  · unfold Engine.hostMoves
    rw [hh]
    exact ite_self e

/-- That command on the port, and those events still to come. -/
def Engine.offerNext (w : CmdWord) (b : Bytes 144) (c : Bytes 200) (evs : List HostEvent) (e : Engine) : Engine :=
  { e with cmdValid := true, cmd := w, blkIn := b, ctxIn := c, host := evs }

/-- On free ports the next command of the host's list is offered (log 7). -/
theorem Engine.hostMoves_of_command {w : CmdWord} {b : Bytes 144} {c : Bytes 200} {evs : List HostEvent}
    (hv : e.cmdValid = false) (hr : e.rst = false) (hh : e.host = .command w b c :: evs) :
    e.hostMoves = e.offerNext w b c evs := by
  obtain ⟨-, -, hfree⟩ := hostMovesOnPortsOnly e
  obtain ⟨-, -, -, hcmd⟩ := hfree hv hr
  exact hcmd w b c evs hh

/-! ## The steps a command has left (45_sequencer.md R163 to R167) -/

theorem Seq.phase_ne_idle_of_stepsLeft_pos {q : Seq} (h : 0 < q.stepsLeft) : q.PHASE ≠ .idle := by
  intro hp
  simp [Seq.stepsLeft, hp] at h

/-- A unit that fires leaves one step less. -/
theorem stepsLeft_unit (h : e.Inv p) (hp : e.SEQ.PHASE ≠ .idle) :
    (unitOf p e.SEQ.PHASE.instr e).SEQ.stepsLeft + 1 = e.SEQ.stepsLeft := by
  have hr := e.SEQ.RND.isLt
  cases hq : e.SEQ.PHASE <;> simp only [Phase.instr, unitOf]
  case idle => exact absurd hq hp
  case uIota =>
    by_cases hlt : e.SEQ.RND.val < 23
    · simp only [unitIota_of_lt hlt, Seq.stepsLeft, Seq.stepsAfterAbsorb, hq]
      omega
    · simp only [unitIota_of_eq hlt, Seq.stepsLeft, Seq.stepsAfterAbsorb, hq]
      omega
  case uL2b =>
    obtain ho | ho := h.opc_of_inAbsorb (by rw [hq]; rfl)
    · simp [unitL2b_absorb ho, Seq.stepsLeft, Seq.stepsAfterAbsorb, hq, ho, Seq.rest]
    · cases hs : e.SEQ.PASS
      · simp [unitL2b_first ho hs, Seq.stepsLeft, Seq.stepsAfterAbsorb, hq, ho, hs]
      · simp [unitL2b_last ho hs, Seq.stepsLeft, Seq.stepsAfterAbsorb, hq, ho, hs]
  case uPad =>
    have hfit : e.SEQ.OPC = .final ∧ e.SEQ.PASS = true := by simpa [Seq.fits, hq] using h.fits
    simp [unitPad_of_lt (h.padLen hq), Seq.stepsLeft, Seq.stepsAfterAbsorb, hq, hfit]
  case uTheta | uRhopi | uChi =>
    simp only [unitTheta_eq, unitRhopi_eq, unitChi_eq, Seq.stepsLeft, Seq.stepsAfterAbsorb, hq]
    omega
  case uXorin | uB2l =>
    simp only [unitXorin_eq, unitB2l_eq, Seq.stepsLeft, Seq.stepsAfterAbsorb, hq, Fin.val_zero]
    omega
  case uNewblk => simp only [unitNewblk_eq, Seq.stepsLeft, hq]
  case uZero | uExtract | uCtxout | uCtxin =>
    simp [unitZero_eq, unitExtract_eq, unitCtxout_eq, unitCtxin_eq, Seq.stepsLeft, Seq.rest, hq]

/-- A step of an undisturbed engine in the middle of a command. -/
theorem stepsLeft_engineTurn (h : e.Inv p) (hr : e.rst = false) (hp : e.SEQ.PHASE ≠ .idle) :
    (engineTurn p e).SEQ.stepsLeft + 1 = e.SEQ.stepsLeft := by
  rw [engineTurn_of_phase hr hp, Engine.hostMoves_SEQ]
  exact stepsLeft_unit h hp

theorem Engine.Inv.engineTurn (h : e.Inv p) : (engineTurn p e).Inv p := h.engineStep.hostMoves

/-- Where the host is still, a step in the middle of a command leaves the ports alone. -/
theorem ports_engineTurn (hr : e.rst = false) (hs : e.HostStill) (hp : e.SEQ.PHASE ≠ .idle) :
    (engineTurn p e).ports = e.ports := by
  have hq : (unitOf p e.SEQ.PHASE.instr e).ports = e.ports := unitOf_ports hp
  rw [engineTurn_of_phase hr hp, Engine.hostMoves_of_still (hs.of_ports hq), hq]

/-- Where the host is still, the ports stand unchanged until the command responds. -/
theorem ports_engineTurns (k : Nat) (h : e.Inv p) (hr : e.rst = false) (hs : e.HostStill) (hk : k ≤ e.SEQ.stepsLeft) :
    ((engineTurn p)^[k] e).Inv p ∧ ((engineTurn p)^[k] e).ports = e.ports := by
  induction k generalizing e with
  | zero => exact ⟨h, rfl⟩
  | succ k ih =>
    have hp : e.SEQ.PHASE ≠ .idle := Seq.phase_ne_idle_of_stepsLeft_pos (by omega)
    have hq : (engineTurn p e).ports = e.ports := ports_engineTurn hr hs hp
    have hleft := stepsLeft_engineTurn h hr hp
    obtain ⟨hinv, hports⟩ := ih h.engineTurn ((ports_eq_iff.mp hq).1.trans hr) (hs.of_ports hq) (by omega)
    rw [Function.iterate_succ_apply]
    exact ⟨hinv, hports.trans hq⟩

/-! ## Commands that run to their response (45_sequencer.md R170) -/

/-- An engine of variant v whose command has ended without fault. -/
structure Engine.Completed (v : Variant) (f : Engine) : Prop where
  undisturbed : f.Undisturbed
  bound : f.BOUND = true
  fault : f.FAULT = false
  cause : f.CAUSE = .none
  vsel : f.VSEL = v
  seq : f.SEQ = Seq.rest
  busy : f.BUSY = false

theorem Engine.Live.of_keeps (hl : e.Live) (k : Keeps e f) : f.Live :=
  ⟨k.busy.trans hl.busy, k.bound.trans hl.bound, k.fault.trans hl.fault, k.cause.trans hl.cause⟩

/-- The turn whose unit responds, with S and DOUT written. -/
theorem turn_completes (hl : e.Live) (hu : e.Undisturbed) (hp : e.SEQ.PHASE ≠ .idle) {s : Bytes 200} {x : Bytes 64} {d : Nat}
    {v : BitVec 2} {c : Bytes 200}
    (hg : unitOf p e.SEQ.PHASE.instr e = ({ e with S := s, DOUT := x } : Engine).finish (BitVec.ofNat 7 d) v c) :
    (engineTurn p e).Completed e.VSEL ∧ (engineTurn p e).S = s ∧ (engineTurn p e).DOUT = x ∧
      (engineTurn p e).rsp = some (okResponse d x v c) := by
  have hok := finish_of_ok (e := { e with S := s, DOUT := x }) hl.fault hl.bound hl.cause (BitVec.ofNat 7 d) v c
  rw [engineTurn_of_phase hu.1 hp, hg, hok]
  refine ⟨⟨undisturbed_hostMoves hu, ?_, ?_, ?_, ?_, ?_, ?_⟩, ?_, ?_, ?_⟩
  all_goals simp [hl.bound, hl.fault, hl.cause, okResponse]

/-- An ABSORB from U_XORIN to its response (45_sequencer.md R165). -/
theorem turns_of_absorb (hl : e.Live) (hu : e.Undisturbed) (hp : e.SEQ.PHASE = .uXorin) (ho : e.SEQ.OPC = .absorb) :
    ∃ f, (engineTurn p)^[99] e = f ∧ f.Completed e.VSEL ∧ f.S = absorbF e.VSEL e.S e.BLK ∧ f.DOUT = e.DOUT ∧
      f.rsp = some (okResponse 0 e.DOUT 0 (zeroBytes 200)) := by
  obtain ⟨g, hg, k, hpg, -, hs, -⟩ := turns_to_l2b (p := p) hu hp
  have hunit := unitOf_phase (p := p) hpg (unitL2b_absorb (k.opc.trans ho))
  obtain ⟨hc, hS, hD, hr⟩ := turn_completes (hl.of_keeps k) k.undisturbed (by simp [hpg]) (d := 0) hunit
  rw [k.dout] at hD hr
  rw [Function.iterate_succ_apply' _ 98, hg]
  exact ⟨_, rfl, k.vsel ▸ hc, hS.trans hs, hD, hr⟩

/-- The last pass of a FINAL, from U_PAD to its response (45_sequencer.md R166). -/
theorem turns_of_lastPass (hl : e.Live) (hu : e.Undisturbed) (hp : e.SEQ.PHASE = .uPad) (ho : e.SEQ.OPC = .final)
    (hq : e.SEQ.PASS = true) (hlen : e.LEN.toNat < e.VSEL.rate) :
    ∃ f, (engineTurn p)^[101] e = f ∧ f.Completed e.VSEL ∧ (f.S, f.DOUT) = finalF e.VSEL e.S e.BLK e.LEN.toNat ∧
      f.rsp = some (okResponse e.VSEL.dlen f.DOUT 0 (zeroBytes 200)) := by
  have hpad := unitOf_phase (p := p) hp (unitPad_of_lt hlen)
  obtain ⟨k1, q1, -, s1, b1, -⟩ := turn_keeps hu (by simp [hp]) hpad rfl rfl rfl rfl rfl rfl rfl rfl rfl rfl
  obtain ⟨g, hg, k2, hpg, -, hs, -⟩ := turns_to_l2b (p := p) k1.undisturbed (by rw [q1])
  have k12 := k1.trans k2
  have hl2b := unitOf_phase (p := p) hpg (unitL2b_last (k12.opc.trans ho) (k12.pass.trans hq))
  obtain ⟨k3, q3, -, s3, -, -⟩ := turn_keeps k2.undisturbed (by simp [hpg]) hl2b rfl rfl rfl rfl rfl rfl rfl rfl rfl rfl
  have k123 := k12.trans k3
  have hpe : (engineTurn p g).SEQ.PHASE = .uExtract := by rw [q3]
  have hext := unitOf_phase (p := p) hpe (unitExtract_eq _)
  obtain ⟨hc, hS, hD, hr⟩ := turn_completes (hl.of_keeps k123) k3.undisturbed (by simp [hpe]) hext
  have hv : (engineTurn p g).VSEL = e.VSEL := k123.vsel
  have hs' : (engineTurn p g).S = absorbF e.VSEL e.S (padSteps e.VSEL e.BLK e.LEN.toNat) := by
    rw [s3, hs, k1.vsel, s1, b1]
  rw [hv] at hc hD hr
  rw [hs'] at hS hD
  rw [Function.iterate_succ_apply' _ 100, Function.iterate_succ_apply' _ 99, Function.iterate_succ_apply _ 98, hg,
    finalF_of_lt _ _ _ hlen]
  exact ⟨_, rfl, hc, by rw [hS, hD], by rw [hr, hD, hs']⟩

/-- The first pass of a FINAL with a full block, from U_XORIN to the U_PAD of the empty block (45_sequencer.md R167). -/
theorem turns_of_firstPass (hl : e.Live) (hu : e.Undisturbed) (hp : e.SEQ.PHASE = .uXorin) (ho : e.SEQ.OPC = .final)
    (hq : e.SEQ.PASS = false) :
    ∃ f, (engineTurn p)^[100] e = f ∧ f.Live ∧ f.Undisturbed ∧ f.SEQ.PHASE = .uPad ∧ f.SEQ.OPC = .final ∧
      f.SEQ.PASS = true ∧ f.LEN = 0 ∧ f.VSEL = e.VSEL ∧ f.S = absorbF e.VSEL e.S e.BLK := by
  obtain ⟨g, hg, k1, hpg, -, hs, -⟩ := turns_to_l2b (p := p) hu hp
  have hl2b := unitOf_phase (p := p) hpg (unitL2b_first (k1.opc.trans ho) (k1.pass.trans hq))
  obtain ⟨k2, q2, -, s2, -, -⟩ := turn_keeps k1.undisturbed (by simp [hpg]) hl2b rfl rfl rfl rfl rfl rfl rfl rfl rfl rfl
  have k12 := k1.trans k2
  have hpn : (engineTurn p g).SEQ.PHASE = .uNewblk := by rw [q2]
  have hlive := hl.of_keeps k12
  have hnew := unitOf_phase (p := p) hpn (unitNewblk_eq _)
  refine ⟨_, rfl, ?_⟩
  rw [Function.iterate_succ_apply' _ 99, Function.iterate_succ_apply' _ 98, hg,
    engineTurn_of_phase k2.undisturbed.1 (by simp [hpn]), hnew]
  refine ⟨⟨?_, ?_, ?_, ?_⟩, undisturbed_hostMoves k2.undisturbed, ?_, ?_, ?_, ?_, ?_, ?_⟩
  all_goals simp [hlive.busy, hlive.bound, hlive.fault, hlive.cause, k12.opc, ho, k12.vsel, s2, hs]

/-- Where a FINAL starts: with a full block at U_XORIN in the first pass, else at U_PAD in the last (45_sequencer.md R162). -/
def finalSeq (len rate : Nat) : Seq :=
  if len = rate then { OPC := .final, PASS := false, RND := 0, PHASE := .uXorin }
  else { OPC := .final, PASS := true, RND := 0, PHASE := .uPad }

theorem startFinal_SEQ (len : Nat) (e : Engine) : (startFinal len e).SEQ = finalSeq len e.VSEL.rate := by
  unfold startFinal finalSeq
  split <;> rfl

/-- The micro-steps of a FINAL (45_sequencer.md R166, R167). -/
def finalTurns (len rate : Nat) : Nat := if len = rate then 201 else 101

/-- A FINAL from its start to its response. -/
theorem turns_of_final {len : Nat} (hl : e.Live) (hu : e.Undisturbed) (hseq : e.SEQ = finalSeq len e.VSEL.rate)
    (hlen : e.LEN.toNat = len) (hle : len ≤ e.VSEL.rate) :
    ∃ f, (engineTurn p)^[finalTurns len e.VSEL.rate] e = f ∧ f.Completed e.VSEL ∧
      (f.S, f.DOUT) = finalF e.VSEL e.S e.BLK len ∧
      f.rsp = some (okResponse e.VSEL.dlen f.DOUT 0 (zeroBytes 200)) := by
  unfold finalTurns
  unfold finalSeq at hseq
  by_cases hfull : len = e.VSEL.rate
  · rw [if_pos hfull] at hseq ⊢
    obtain ⟨g, hg, hlg, hug, hpg, hog, hqg, hz, hv, hs⟩ :=
      turns_of_firstPass (p := p) hl hu (by rw [hseq]) (by rw [hseq]) (by rw [hseq])
    have hz' : g.LEN.toNat = 0 := by rw [hz]; rfl
    have hlast := turns_of_lastPass (p := p) hlg hug hpg hog hqg (hz' ▸ g.VSEL.rate_pos)
    rw [hz', hv, hs, ← finalF_rate, ← hfull] at hlast
    rw [Function.iterate_add_apply _ 101 100, hg]
    exact hlast
  · rw [if_neg hfull] at hseq ⊢
    have hlast := turns_of_lastPass (p := p) hl hu (by rw [hseq]) (by rw [hseq]) (by rw [hseq]) (by omega)
    rwa [hlen] at hlast

end Sys2Proof.Machine
end

section
/-! Streams of blocks (20_memory.md R59, 42_pad_final.md R119): commands that the host offers one after another run one at a time, in
its order, each from its acceptance to its response. -/

namespace Sys2Proof.Machine

variable {p : FullBlockFinal} {e : Engine}

/-! ## Acceptance (45_sequencer.md R162) -/

/-- The opcode of a command word is the one it was made with (30_encoding.md R70). -/
theorem opcField_cmdWord (o : Opc) (v : BitVec 2) (l : BitVec 8) : opcField (cmdWord o v l) = o.code :=
  opcField_append ..

/-- The word of a command that uses `len` only is read back with that `len` (30_encoding.md R73). -/
theorem decodeLen_cmdWord (mk : Nat → Instr) (o : Opc) (l : BitVec 8) : decodeLen mk (cmdWord o 0 l) = .ok (mk l.toNat) := by
  have hv : vselField (cmdWord o 0 l) = 0 := vselField_append ..
  have hr : rsvField (cmdWord o 0 l) = 0 := rsvField_append ..
  have hl : lenField (cmdWord o 0 l) = l := lenField_append ..
  rw [decodeLen, hr, hv, hl]
  rfl

theorem decodeCommand_wordOf_absorb {len : Nat} {v : Variant} (h : len ≤ v.rate) :
    decodeCommand (wordOf (.absorb len)) = .ok (.absorb len) := by
  change decodeCommand (cmdWord .absorb 0 (BitVec.ofNat 8 len)) = _
  simp only [decodeCommand, opcField_cmdWord, decodeLen_cmdWord, Opc.code, toNat_len_of_le h, BitVec.reduceEq, if_false,
    if_true]

theorem decodeCommand_wordOf_final {len : Nat} {v : Variant} (h : len ≤ v.rate) :
    decodeCommand (wordOf (.final len)) = .ok (.final len) := by
  change decodeCommand (cmdWord .final 0 (BitVec.ofNat 8 len)) = _
  simp only [decodeCommand, opcField_cmdWord, decodeLen_cmdWord, Opc.code, toNat_len_of_le h, BitVec.reduceEq, if_false,
    if_true]

/-- The start of ABSORB's micro-program with a whole block (45_sequencer.md R162). -/
def startAbsorb (e : Engine) : Engine := (e.loadBlock e.VSEL.rate).launch .absorb false .uXorin

/-- An ABSORB of a whole block on a ready engine starts (41_absorb.md R100, R105). -/
theorem acceptAbsorb_of_ready (h : e.Ready) : acceptAbsorb e.VSEL.rate e = startAbsorb e.take := by
  obtain ⟨hf, hb⟩ := h
  exact accept_starts (nb := true) hf (fun _ => hb) ((absorbCheck_eq_none (e := e.take)).mpr rfl)

/-- A FINAL that passes its checks on a ready engine starts (42_pad_final.md R110, R111). -/
theorem acceptFinal_of_ready {len : Nat} (h : e.Ready) (hle : len ≤ e.VSEL.rate) (hp : len = e.VSEL.rate → p = .extraBlock) :
    acceptFinal p len e = startFinal len e.take := by
  obtain ⟨hf, hb⟩ := h
  exact accept_starts hf (fun _ => hb) (finalCheck_eq_none.mpr (hle.lt_or_eq.imp_right fun heq => ⟨heq, hp heq⟩))

@[simp] theorem startFinal_VSEL (len : Nat) (e : Engine) : (startFinal len e).VSEL = e.VSEL := by rw [startFinal_eq]
@[simp] theorem startFinal_S (len : Nat) (e : Engine) : (startFinal len e).S = e.S := by rw [startFinal_eq]
@[simp] theorem startFinal_BLK (len : Nat) (e : Engine) : (startFinal len e).BLK = e.blkIn := by rw [startFinal_eq]
@[simp] theorem startFinal_LEN (len : Nat) (e : Engine) : (startFinal len e).LEN = BitVec.ofNat 8 len := by rw [startFinal_eq]
@[simp] theorem startFinal_rst (len : Nat) (e : Engine) : (startFinal len e).rst = e.rst := by rw [startFinal_eq]
@[simp] theorem startFinal_host (len : Nat) (e : Engine) : (startFinal len e).host = e.host := by rw [startFinal_eq]

/-- A step of an idle engine accepts the legal word offered. -/
theorem engineTurn_of_offer {i : Instr} (hr : e.rst = false) (hp : e.SEQ.PHASE = .idle) (hv : e.cmdValid = true)
    (hb : e.BUSY = false) (hd : decodeCommand e.cmd = .ok i) : engineTurn p e = (unitOf p i e).hostMoves := by
  have hf : e.fetch = .run i := by
    rw [fetch_of_idle hr hp]
    simp [Engine.fetchIdle, Engine.offered, Engine.cmdReady, hv, hb, hd]
  unfold engineTurn engineStep
  rw [hf]

/-- A step of an idle engine to which nothing is offered waits. -/
theorem engineTurn_of_quiet (hr : e.rst = false) (hp : e.SEQ.PHASE = .idle) (hv : e.cmdValid = false) :
    engineTurn p e = ({ e with rsp := none } : Engine).hostMoves := by
  have hf : e.fetch = .run .idle := by
    rw [fetch_of_idle hr hp]
    simp [Engine.fetchIdle, Engine.offered, hv]
  unfold engineTurn engineStep
  rw [hf]
  exact congrArg Engine.hostMoves (unitOf_idle_of_not_offered (by simp [hv]))

/-! ## Streams -/

/-- The host offers a command. -/
def HostEvent.IsCommand (ev : HostEvent) : Prop := ∃ w b c, ev = .command w b c

/-- A ready idle engine with the first of these commands on its port, and the others still to come. -/
structure Engine.Streams (p : FullBlockFinal) (evs : List HostEvent) (e : Engine) : Prop where
  inv : e.Inv p
  ready : e.Ready
  idle : e.SEQ.PHASE = .idle
  rst : e.rst = false
  offered : e.cmdValid = true
  pending : .command e.cmd e.blkIn e.ctxIn :: e.host = evs
  commands : ∀ ev ∈ evs, ev.IsCommand

/-- With a first command in the host's list, the engine waits one step, and the stream stands (log 7). -/
theorem Engine.Streams.start {ev : HostEvent} {evs : List HostEvent} (h : e.Inv p) (hready : e.Ready)
    (hp : e.SEQ.PHASE = .idle) (hr : e.rst = false) (hv : e.cmdValid = false) (hh : e.host = ev :: evs)
    (hc : ∀ ev' ∈ ev :: evs, ev'.IsCommand) :
    (engineTurn p e).Streams p (ev :: evs) ∧ (engineTurn p e).S = e.S ∧ (engineTurn p e).VSEL = e.VSEL := by
  have hinv : (engineTurn p e).Inv p := h.engineTurn
  obtain ⟨w, b, c, rfl⟩ := hc ev List.mem_cons_self
  have hmove := Engine.hostMoves_of_command (e := { e with rsp := none }) hv hr hh
  rw [engineTurn_of_quiet hr hp hv, hmove] at hinv ⊢
  exact ⟨⟨hinv, hready, hp, hr, rfl, rfl, hc⟩, rfl, rfl⟩

theorem rst_not_mem_of_commands {evs : List HostEvent} (h : ∀ ev ∈ evs, ev.IsCommand) : .rst ∉ evs := by
  intro hm
  obtain ⟨_, _, _, heq⟩ := h _ hm
  cases heq

/-- An ABSORB of the stream: 1 + 99 steps later it has run, and the next command stands on the port. -/
theorem Engine.Streams.absorb {b : Bytes 144} {ev : HostEvent} {evs : List HostEvent}
    (h : e.Streams p (offerBlock (.absorb e.VSEL.rate) b :: ev :: evs)) :
    ∃ f, (engineTurn p)^[100] e = f ∧ f.Streams p (ev :: evs) ∧ f.S = absorbF e.VSEL e.S b ∧ f.VSEL = e.VSEL := by
  have hc : ∀ ev' ∈ ev :: evs, ev'.IsCommand := fun ev' hm => h.commands ev' (List.mem_cons_of_mem _ hm)
  have hrst : .rst ∉ evs := fun hm => rst_not_mem_of_commands hc (List.mem_cons_of_mem _ hm)
  obtain ⟨hoffer, hhost⟩ := List.cons.inj h.pending
  obtain ⟨hcmd, hblk, -⟩ := HostEvent.command.inj hoffer
  have hdec : decodeCommand e.cmd = .ok (.absorb e.VSEL.rate) := hcmd ▸ decodeCommand_wordOf_absorb le_rfl
  obtain ⟨w, b', c', rfl⟩ := hc ev List.mem_cons_self
  have hturn : engineTurn p e = (startAbsorb e.take).offerNext w b' c' evs := by
    rw [engineTurn_of_offer h.rst h.idle h.offered (h.inv.at_boundary h.idle).2 hdec]
    exact (congrArg Engine.hostMoves (acceptAbsorb_of_ready h.ready)).trans
      (Engine.hostMoves_of_command (e := startAbsorb e.take) rfl h.rst hhost)
  have hinv : ((startAbsorb e.take).offerNext w b' c' evs).Inv p := hturn ▸ h.inv.engineTurn
  obtain ⟨hf, hports⟩ := ports_engineTurns 99 hinv h.rst (.inl rfl) le_rfl
  obtain ⟨hr, hv, hcmd', hblk', hctx', hhost'⟩ := ports_eq_iff.mp hports
  have hlive : ((startAbsorb e.take).offerNext w b' c' evs).Live := hinv.live (nofun : Phase.uXorin ≠ .idle)
  obtain ⟨_, rfl, hdone, hS, -, -⟩ := turns_of_absorb (p := p) hlive ⟨h.rst, hrst⟩ rfl rfl
  rw [Function.iterate_succ_apply _ 99, hturn]
  refine ⟨_, rfl, ⟨hf, ⟨hdone.fault, hdone.bound⟩, by rw [hdone.seq]; rfl, hr.trans h.rst, hv, ?_, hc⟩, ?_, hdone.vsel⟩
  · rw [hcmd', hblk', hctx', hhost']
    rfl
  · rw [hS, ← hblk]
    rfl

/-- The FINAL that ends a stream: when it has run, S and the digest register are those of FinalF (42_pad_final.md R112). -/
theorem Engine.Streams.final {b : Bytes 144} {len : Nat} (h : e.Streams p [offerBlock (.final len) b])
    (hle : len ≤ e.VSEL.rate) (hp : len = e.VSEL.rate → p = .extraBlock) :
    ∃ f, (engineTurn p)^[finalTurns len e.VSEL.rate + 1] e = f ∧ f.Completed e.VSEL ∧
      (f.S, f.DOUT) = finalF e.VSEL e.S b len ∧ f.rsp = some (okResponse e.VSEL.dlen f.DOUT 0 (zeroBytes 200)) := by
  obtain ⟨hoffer, hhost⟩ := List.cons.inj h.pending
  obtain ⟨hcmd, hblk, -⟩ := HostEvent.command.inj hoffer
  have hdec : decodeCommand e.cmd = .ok (.final len) := hcmd ▸ decodeCommand_wordOf_final hle
  have hturn : engineTurn p e = startFinal len e.take := by
    rw [engineTurn_of_offer h.rst h.idle h.offered (h.inv.at_boundary h.idle).2 hdec]
    refine (congrArg Engine.hostMoves (acceptFinal_of_ready h.ready hle hp)).trans (Engine.hostMoves_of_still (.inr ?_))
    rw [startFinal_host]
    exact hhost
  have hinv : (startFinal len e.take).Inv p := hturn ▸ h.inv.engineTurn
  have hseq : (startFinal len e.take).SEQ = finalSeq len e.VSEL.rate := startFinal_SEQ len e.take
  have hidle : (startFinal len e.take).SEQ.PHASE ≠ .idle := by
    rw [hseq, finalSeq]
    split <;> decide
  have hu : (startFinal len e.take).Undisturbed := ⟨by simp [h.rst], by simp [hhost]⟩
  have hend := turns_of_final (p := p) (len := len) (hinv.live hidle) hu
  simp only [startFinal_VSEL, startFinal_S, startFinal_BLK, startFinal_LEN, Engine.take_VSEL, Engine.take_S,
    Engine.take_blkIn, hblk] at hend
  rw [Function.iterate_succ_apply, hturn]
  exact hend hseq (toNat_len_of_le hle) hle

/-- What the host offers for a message in blocks: an ABSORB for each whole one, and a FINAL of the last (42_pad_final.md R119). -/
def blockStream (v : Variant) (blocks : List (Bytes 144)) (last : Bytes 144) (len : Nat) : List HostEvent :=
  blocks.map (offerBlock (.absorb v.rate)) ++ [offerBlock (.final len) last]

/-- Something of a stream is always left to offer: at least the FINAL. -/
theorem blockStream_eq_cons (v : Variant) (blocks : List (Bytes 144)) (last : Bytes 144) (len : Nat) :
    ∃ ev evs, blockStream v blocks last len = ev :: evs := by
  cases blocks <;> exact ⟨_, _, rfl⟩

theorem blockStream_commands (v : Variant) (blocks : List (Bytes 144)) (last : Bytes 144) (len : Nat) :
    ∀ ev ∈ blockStream v blocks last len, ev.IsCommand := by
  intro ev hm
  obtain hm | hm := List.mem_append.mp hm
  · obtain ⟨b, -, rfl⟩ := List.mem_map.mp hm
    exact ⟨_, _, _, rfl⟩
  · obtain rfl := List.mem_singleton.mp hm
    exact ⟨_, _, _, rfl⟩

/-- A whole stream, block by block (42_pad_final.md R119). -/
theorem Engine.Streams.run {last : Bytes 144} {len : Nat} (blocks : List (Bytes 144))
    (h : e.Streams p (blockStream e.VSEL blocks last len)) (hle : len ≤ e.VSEL.rate)
    (hp : len = e.VSEL.rate → p = .extraBlock) :
    ∃ f, (engineTurn p)^[finalTurns len e.VSEL.rate + 1 + 100 * blocks.length] e = f ∧ f.Completed e.VSEL ∧
      (f.S, f.DOUT) = finalF e.VSEL (blocks.foldl (absorbF e.VSEL) e.S) last len ∧
      f.rsp = some (okResponse e.VSEL.dlen f.DOUT 0 (zeroBytes 200)) := by
  induction blocks generalizing e with
  | nil => exact h.final hle hp
  | cons b blocks ih =>
    obtain ⟨ev, evs, hcons⟩ := blockStream_eq_cons e.VSEL blocks last len
    have hfirst : e.Streams p (offerBlock (.absorb e.VSEL.rate) b :: ev :: evs) := hcons ▸ h
    obtain ⟨g, hg, hnext, hS, hv⟩ := hfirst.absorb
    rw [← hcons] at hnext
    have hrest := ih (e := g) (by rwa [hv]) (by rwa [hv]) (by rwa [hv])
    rw [hv, hS] at hrest
    rw [List.length_cons, Nat.mul_succ, ← Nat.add_assoc, Function.iterate_add_apply, hg, List.foldl_cons]
    exact hrest

/-- Settles O54: the first command is put on the port, then the stream runs block by block. -/
theorem blockStreamGivesDigest : Obligations.BlockStreamGivesDigest := by
  intro s blocks last len ht hinv hready hr hv hb hle hp hhost
  have hidle : s.self.SEQ.PHASE = .idle := by
    by_contra hne
    rw [hinv.busy.mpr hne] at hb
    cases hb
  obtain ⟨ev, evs, hcons⟩ := blockStream_eq_cons s.self.VSEL blocks last len
  have hcmds := blockStream_commands s.self.VSEL blocks last len
  obtain ⟨hstream, hS, hV⟩ := Engine.Streams.start hinv hready hidle hr hv (hhost.trans hcons) (hcons ▸ hcmds)
  rw [← hcons, ← hV] at hstream
  have hrun := hstream.run blocks (by rwa [hV]) (by rwa [hV])
  rw [hV, hS] at hrun
  obtain ⟨_, rfl, hdone, hdigest, hrsp⟩ := hrun
  have hcount : 1 + 100 * blocks.length + (if len = s.self.VSEL.rate then 202 else 102) =
      finalTurns len s.self.VSEL.rate + 1 + 100 * blocks.length + 1 := by
    unfold finalTurns
    split <;> omega
  rw [hcount, run_of_nil _ ht]
  exact ⟨_, rfl, hdigest, hrsp, hdone.vsel, hdone.busy, hdone.fault⟩

end Sys2Proof.Machine
end

section
/-! The encodings (30_encoding.md): decoding undoes encoding and encoding undoes decoding (R71 to R73, R76), which words are illegal
(R75), the rows of the command table decide what a word is (R71, R80), and which bytes of a block are ignored (R74). -/

namespace Sys2Proof

open Machine

variable {w : CmdWord} {i : Instr}

/-! ## The fields of a word (30_encoding.md R70) -/

/-- A word whose reserved field is 0 is put together from its other three fields. -/
theorem cmdWord_of_fields {o : Opc} {v : BitVec 2} {l : BitVec 8} (ho : opcField w = o.code) (hv : vselField w = v)
    (hr : rsvField w = 0) (hl : lenField w = l) : cmdWord o v l = w := by
  have hw := cmd_fields w
  rwa [ho, hv, hr, hl] at hw

/-! ## The three shapes of a command (30_encoding.md R71) -/

theorem decodePlain_eq_ok_iff {i' : Instr} :
    decodePlain i w = .ok i' ↔ rsvField w = 0 ∧ vselField w = 0 ∧ lenField w = 0 ∧ i = i' := by
  unfold decodePlain
  split_ifs <;> simp_all

theorem decodeVsel_eq_ok_iff {mk : Variant → Instr} :
    decodeVsel mk w = .ok i ↔ rsvField w = 0 ∧ lenField w = 0 ∧ mk (Variant.ofCode (vselField w)) = i := by
  unfold decodeVsel
  split_ifs <;> simp_all

theorem decodeLen_eq_ok_iff {mk : Nat → Instr} :
    decodeLen mk w = .ok i ↔ rsvField w = 0 ∧ vselField w = 0 ∧ mk (lenField w).toNat = i := by
  unfold decodeLen
  split_ifs <;> simp_all

theorem decodePlain_error_iff :
    (∃ b, decodePlain i w = .error b) ↔ rsvField w ≠ 0 ∨ vselField w ≠ 0 ∨ lenField w ≠ 0 := by
  unfold decodePlain
  split_ifs <;> simp_all

theorem decodeVsel_error_iff {mk : Variant → Instr} :
    (∃ b, decodeVsel mk w = .error b) ↔ rsvField w ≠ 0 ∨ lenField w ≠ 0 := by
  unfold decodeVsel
  split_ifs <;> simp_all

theorem decodeLen_error_iff {mk : Nat → Instr} :
    (∃ b, decodeLen mk w = .error b) ↔ rsvField w ≠ 0 ∨ vselField w ≠ 0 := by
  unfold decodeLen
  split_ifs <;> simp_all

theorem decodePlain_cmdWord (o : Opc) : decodePlain i (cmdWord o 0 0) = .ok i :=
  decodePlain_eq_ok_iff.mpr ⟨rsvField_append .., vselField_append .., lenField_append .., rfl⟩

theorem decodeVsel_cmdWord (mk : Variant → Instr) (o : Opc) (v : Variant) :
    decodeVsel mk (cmdWord o v.code 0) = .ok (mk v) := by
  have hv : vselField (cmdWord o v.code 0) = v.code := vselField_append ..
  exact decodeVsel_eq_ok_iff.mpr ⟨rsvField_append .., lenField_append .., by rw [hv, v.ofCode_code]⟩

/-! ## The opcode (30_encoding.md R70, R71) -/

/-- What the decoder makes of a word with that opcode: the shape of the command's row. -/
def Opc.decodeWord : Opc → CmdWord → Except BadCode Instr
  | .none => fun _ => .error .unassignedOpcode
  | .init => decodeVsel .init
  | .reset => decodePlain .reset
  | .absorb => decodeLen .absorb
  | .final => decodeLen .final
  | .ctxrd => decodePlain .ctxrd
  | .ctxwr => decodeVsel .ctxwr

theorem decodeCommand_of_opcode {o : Opc} (h : opcField w = o.code) : decodeCommand w = o.decodeWord w := by
  unfold decodeCommand
  rw [h]
  cases o <;> rfl

/-- A word has a command's opcode, or one that is not assigned. -/
theorem decodeCommand_cases (w : CmdWord) :
    (∃ o : Opc, opcField w = o.code ∧ decodeCommand w = o.decodeWord w) ∨
    ((opcField w = 0x0 ∨ 0x7 ≤ opcField w) ∧ decodeCommand w = .error .unassignedOpcode) := by
  unfold decodeCommand
  split_ifs with h1 h2 h3 h4 h5 h6
  · exact .inl ⟨.init, h1, rfl⟩
  · exact .inl ⟨.reset, h2, rfl⟩
  · exact .inl ⟨.absorb, h3, rfl⟩
  · exact .inl ⟨.final, h4, rfl⟩
  · exact .inl ⟨.ctxrd, h5, rfl⟩
  · exact .inl ⟨.ctxwr, h6, rfl⟩
  · exact .inr ⟨by bv_omega, rfl⟩

theorem decodeCommand_cmdWord (o : Opc) (v : BitVec 2) (l : BitVec 8) :
    decodeCommand (cmdWord o v l) = o.decodeWord (cmdWord o v l) :=
  decodeCommand_of_opcode (opcField_cmdWord o v l)

/-! ## Round trips (30_encoding.md R71, R76) -/

theorem toNat_len_of_fits {len : Nat} (h : lenFits len = true) : (BitVec.ofNat 8 len).toNat = len := by
  rw [BitVec.toNat_ofNat, Nat.mod_eq_of_lt (of_decide_eq_true h)]

/-- A code is a phase's exactly if it decodes to it. -/
theorem decodePhase_eq_ok_iff {c : BitVec 4} {ph : Phase} : decodePhase c = .ok ph ↔ ph.code = c := by
  cases ph <;> revert c <;> decide

theorem encode_phase_instr (ph : Phase) : WellFormed ph.instr = true ∧ encode ph.instr = .phase ph.code := by
  cases ph <;> exact ⟨rfl, rfl⟩

/-- Settles O1: a command's word is read back by the shape of its row, a phase's code by its value. -/
theorem decodeEncodeRoundTrip : Obligations.DecodeEncodeRoundTrip := by
  intro i h
  cases i with
  | init v | ctxwr v => exact (decodeCommand_cmdWord ..).trans (decodeVsel_cmdWord ..)
  | reset | ctxrd => exact (decodeCommand_cmdWord ..).trans (decodePlain_cmdWord _)
  | absorb len | final len =>
    refine (decodeCommand_cmdWord ..).trans ((decodeLen_cmdWord ..).trans ?_)
    rw [toNat_len_of_fits h]
  | _ => rfl

theorem encode_of_decodePlain {o : Opc} {i' : Instr} (ho : opcField w = o.code) (h : decodePlain i w = .ok i') :
    i = i' ∧ cmdWord o 0 0 = w := by
  obtain ⟨hr, hv, hl, rfl⟩ := decodePlain_eq_ok_iff.mp h
  exact ⟨rfl, cmdWord_of_fields ho hv hr hl⟩

theorem encode_of_decodeVsel {mk : Variant → Instr} {o : Opc} (ho : opcField w = o.code) (h : decodeVsel mk w = .ok i) :
    ∃ v : Variant, mk v = i ∧ cmdWord o v.code 0 = w := by
  obtain ⟨hr, hl, rfl⟩ := decodeVsel_eq_ok_iff.mp h
  exact ⟨_, rfl, cmdWord_of_fields ho (Variant.code_ofCode _).symm hr hl⟩

theorem encode_of_decodeLen {mk : Nat → Instr} {o : Opc} (ho : opcField w = o.code) (h : decodeLen mk w = .ok i) :
    ∃ len, mk len = i ∧ lenFits len = true ∧ cmdWord o 0 (BitVec.ofNat 8 len) = w := by
  obtain ⟨hr, hv, rfl⟩ := decodeLen_eq_ok_iff.mp h
  have hlen : lenField w = BitVec.ofNat 8 (lenField w).toNat := by
    rw [BitVec.ofNat_toNat, BitVec.setWidth_eq]
  exact ⟨_, rfl, decide_eq_true (lenField w).isLt, cmdWord_of_fields ho hv hr hlen⟩

/-- A word that decodes is the one its command is encoded as. -/
theorem encode_of_decodeCommand (h : decodeCommand w = .ok i) : WellFormed i = true ∧ encode i = .cmd w := by
  obtain ⟨o, ho, hd⟩ | ⟨-, hd⟩ := decodeCommand_cases w <;> rw [hd] at h
  · cases o with
    | none => cases h
    | init | ctxwr =>
      obtain ⟨v, rfl, rfl⟩ := encode_of_decodeVsel ho h
      exact ⟨rfl, rfl⟩
    | reset | ctxrd =>
      obtain ⟨rfl, rfl⟩ := encode_of_decodePlain ho h
      exact ⟨rfl, rfl⟩
    | absorb | final =>
      obtain ⟨len, rfl, hfit, rfl⟩ := encode_of_decodeLen ho h
      exact ⟨hfit, rfl⟩
  · cases h

/-- Settles O2: a command word by its fields, a phase code by its value. -/
theorem encodeDecodeRoundTrip : Obligations.EncodeDecodeRoundTrip := by
  intro c i h
  cases c with
  | cmd w => exact encode_of_decodeCommand h
  | phase c =>
    cases hp : decodePhase c with
    | error b => simp [decode, hp, Except.map] at h
    | ok ph =>
      obtain rfl : ph.instr = i := by simpa [decode, hp, Except.map] using h
      rw [← decodePhase_eq_ok_iff.mp hp]
      exact encode_phase_instr ph

/-- Settles O5. -/
theorem sampleCodesDecode : Obligations.SampleCodesDecode := by
  unfold Obligations.SampleCodesDecode
  decide

/-! ## Illegal words (30_encoding.md R75) -/

/-- A word is illegal if it is no command. -/
theorem decodeCommand_error_iff : (∃ b, decodeCommand w = .error b) ↔ ∀ i, decodeCommand w ≠ .ok i := by
  cases decodeCommand w <;> simp

/-- Settles O4: row by row of the table, by the fields that must be 0 in that row. -/
theorem illegalWordsListed : Obligations.IllegalWordsListed := by
  intro w
  obtain ⟨o, ho, hd⟩ | ⟨hopc, hd⟩ := decodeCommand_cases w <;> rw [hd]
  · cases o with
    | none => exact iff_of_true ⟨_, rfl⟩ (.inl (.inl ho))
    | init | ctxwr => simp [ho, Opc.code, Opc.decodeWord, decodeVsel_error_iff]
    | reset | ctxrd => simp [ho, Opc.code, Opc.decodeWord, decodePlain_error_iff]
    | absorb | final => simp [ho, Opc.code, Opc.decodeWord, decodeLen_error_iff]
  · exact iff_of_true ⟨_, rfl⟩ (.inl hopc)

/-! ## The rows of the table (30_encoding.md R71, R80) -/

/-- A word that decodes matches one row, its command's. -/
theorem rows_of_decodeCommand (h : decodeCommand w = .ok i) :
    (cmdRows.filter fun r => r.matchesWord w).map CmdRow.mnemonic = [i.mnemonic] := by
  obtain ⟨hwf, he⟩ := encode_of_decodeCommand h
  have hrow : Laws.TableRow.Statement i := by
    obtain ⟨v, rfl⟩ | rfl | ⟨len, rfl⟩ | ⟨len, rfl⟩ | rfl | ⟨v, rfl⟩ := decodeCommand_is_command h
    exacts [Laws.TableRow.init v, Laws.TableRow.reset, Laws.TableRow.absorb len, Laws.TableRow.final len,
      Laws.TableRow.ctxrd, Laws.TableRow.ctxwr v]
  have hrows := hrow hwf
  rw [he] at hrows
  exact hrows

/-- A row that a decoded word matches is its command's. -/
theorem mnemonic_of_matchesWord {r : CmdRow} (hr : r ∈ cmdRows) (hm : r.matchesWord w = true)
    (h : decodeCommand w = .ok i) : i.mnemonic = r.mnemonic := by
  have hmem : r.mnemonic ∈ (cmdRows.filter fun r => r.matchesWord w).map CmdRow.mnemonic :=
    List.mem_map_of_mem (List.mem_filter.mpr ⟨hr, hm⟩)
  rw [rows_of_decodeCommand h, List.mem_singleton] at hmem
  exact hmem.symm

/-- A row's match and mask, field by field. -/
theorem fields_of_matchesWord {r : CmdRow} (h : r.matchesWord w = true) :
    opcField w &&& opcField r.mask = opcField r.matchBits ∧ vselField w &&& vselField r.mask = vselField r.matchBits ∧
    rsvField w &&& rsvField r.mask = rsvField r.matchBits ∧ lenField w &&& lenField r.mask = lenField r.matchBits := by
  have hw : w &&& r.mask = r.matchBits := eq_of_beq h
  rw [← hw]
  simp only [opcField, vselField, rsvField, lenField, BitVec.extractLsb'_and, and_self]

/-- Every row fixes an assigned opcode, and at 0 the reserved field and each operand field its command does not use. -/
theorem cmdRows_fixed : ∀ r ∈ cmdRows,
    (opcField r.mask = .allOnes 4 ∧ ¬ (opcField r.matchBits = 0x0 ∨ 0x7 ≤ opcField r.matchBits)) ∧
    (rsvField r.mask = .allOnes 2 ∧ rsvField r.matchBits = 0) ∧
    (opcField r.matchBits = 0x2 ∨ opcField r.matchBits = 0x3 ∨ opcField r.matchBits = 0x4 ∨ opcField r.matchBits = 0x5 →
      vselField r.mask = .allOnes 2 ∧ vselField r.matchBits = 0) ∧
    (opcField r.matchBits = 0x1 ∨ opcField r.matchBits = 0x2 ∨ opcField r.matchBits = 0x5 ∨ opcField r.matchBits = 0x6 →
      lenField r.mask = .allOnes 8 ∧ lenField r.matchBits = 0) := by decide

/-- A field that the mask keeps whole is the row's. -/
theorem eq_of_and_mask {n : Nat} {x m c d : BitVec n} (h : x &&& m = c) (hm : m = .allOnes n ∧ c = d) : x = d := by
  rw [← hm.2, ← h, hm.1, BitVec.and_allOnes]

/-- A word that matches a row is a command: none of the reasons of R75 applies to it. -/
theorem decodes_of_matchesWord {r : CmdRow} (hr : r ∈ cmdRows) (hm : r.matchesWord w = true) :
    ∃ i, decodeCommand w = .ok i := by
  obtain ⟨ho, hv, hrsv, hl⟩ := fields_of_matchesWord hm
  obtain ⟨⟨hmask, hassigned⟩, hrsv0, hvsel0, hlen0⟩ := cmdRows_fixed r hr
  rw [← eq_of_and_mask ho ⟨hmask, rfl⟩] at hassigned hvsel0 hlen0
  by_contra hnone
  obtain hopc | hne | ⟨hne, hopc⟩ | ⟨hne, hopc⟩ :=
    (illegalWordsListed w).mp (decodeCommand_error_iff.mpr (not_exists.mp hnone))
  · exact hassigned hopc
  · exact hne (eq_of_and_mask hrsv hrsv0)
  · exact hne (eq_of_and_mask hv (hvsel0 hopc))
  · exact hne (eq_of_and_mask hl (hlen0 hopc))

theorem cmdRows_mnemonic_injective : ∀ r ∈ cmdRows, ∀ r' ∈ cmdRows, r.mnemonic = r'.mnemonic → r = r' := by decide

/-- Settles O3: a word matches exactly one row if it decodes, and decodes if it matches one. -/
theorem commandTableDecides : Obligations.CommandTableDecides := by
  intro w
  refine ⟨?command, ?unique, ?illegal⟩
  case command =>
    intro r hr hm
    obtain ⟨i, hi⟩ := decodes_of_matchesWord hr hm
    exact ⟨i, hi, mnemonic_of_matchesWord hr hm hi⟩
  case unique =>
    intro r hr r' hr' hm hm'
    obtain ⟨i, hi⟩ := decodes_of_matchesWord hr hm
    exact cmdRows_mnemonic_injective r hr r' hr'
      ((mnemonic_of_matchesWord hr hm hi).symm.trans (mnemonic_of_matchesWord hr' hm' hi))
  case illegal =>
    intro hnone
    refine decodeCommand_error_iff.mpr fun i hi => ?_
    have hempty : (cmdRows.filter fun r => r.matchesWord w) = [] := by simpa using hnone
    simpa [hempty] using rows_of_decodeCommand hi

/-! ## Ignored bytes of a block (30_encoding.md R74) -/

/-- FinalF reads the block below `len` only: the bytes from there on are padding, or past the rate. -/
theorem finalF_congr {v : Variant} {s : Bytes 200} {b b' : Bytes 144} {len : Nat} (hle : len ≤ v.rate)
    (h : ∀ k (hk : k < 144), k < len → b[k] = b'[k]) : finalF v s b len = finalF v s b' len := by
  obtain hlt | rfl := hle.lt_or_eq
  · have hpad : absorbF v s (padSteps v b len) = absorbF v s (padSteps v b' len) :=
      absorbF_congr v s fun k hk hr => padSteps_congr v h hk hr
    rw [finalF_of_lt v s b hlt, finalF_of_lt v s b' hlt, hpad]
  · rw [finalF_rate v s b b', finalF_rate v s b' b', absorbF_congr v s h]

/-- Settles O45. -/
theorem ignoredBytesDoNotMatter : Obligations.IgnoredBytesDoNotMatter :=
  fun v s _ _ _ => ⟨absorbF_congr v s, finalF_congr⟩

end Sys2Proof
end

section
/-! The lifecycle of an instance (40_variant_lifecycle.md): the units U_ZERO, U_CTXOUT and U_CTXIN (R94 to R96), the four commands
that run them to their response (R90 to R93), and the clone of one instance into another (R97). -/

namespace Sys2Proof.Machine

variable {p : FullBlockFinal} {e : Engine}

/-! ## What a response shows (10_state.md R32) -/

/-- Without a fault, a response shows STATUS, DOUT and what the unit gives it. -/
theorem finish_rsp_of_ok (hf : e.FAULT = false) (d : BitVec 7) (v : BitVec 2) (c : Bytes 200) :
    (e.finish d v c).rsp = some ⟨(e.finish d v c).status, d, e.DOUT, v, c⟩ :=
  congrArg some (response_of_ok (e := e.atRest) hf d v c)

/-- Responding with DOUT cleared shows STATUS alone, whether or not FAULT stands. -/
theorem respond_rsp_of_zero (h : e.DOUT = zeroBytes 64) :
    e.respond.rsp = some ⟨e.respond.status, 0, zeroBytes 64, 0, zeroBytes 200⟩ :=
  congrArg some (response_of_zero (e := e.atRest) h)

/-! ## The units (R94 to R96) -/

/-- Settles O25: the unit clears S and DOUT and responds. -/
theorem zeroUnit : Obligations.ZeroUnit := fun s =>
  ⟨_, exec_eq .uZero s, fun _ hk => zeroBytes_getElem hk, fun _ hk => zeroBytes_getElem hk,
    respond_rsp_of_zero (e := { s.self with S := zeroBytes 200, DOUT := zeroBytes 64 }) rfl, rfl⟩

/-- Settles O39: the unit is a response with VSEL and S on the context ports. -/
theorem contextOutUnit : Obligations.ContextOutUnit := fun s =>
  ⟨_, exec_eq .uCtxout s, fun hf => finish_rsp_of_ok hf 0 s.self.VSEL.code s.self.S, rfl⟩

/-- Settles O40: the unit writes S from CTX, clears DOUT and responds. -/
theorem contextInUnit : Obligations.ContextInUnit := fun s =>
  ⟨_, exec_eq .uCtxin s, fun _ _ => rfl, fun _ hk => zeroBytes_getElem hk,
    respond_rsp_of_zero (e := { s.self with S := s.self.CTX, DOUT := zeroBytes 64 }) rfl, rfl⟩

/-! ## What an acceptance starts (R90 to R93, 45_sequencer.md R162) -/

/-- INIT starts on any engine without fault, bound or not. -/
theorem acceptInit_of_ok (hf : e.FAULT = false) (v : Variant) :
    acceptInit v e = (e.take.bind v).launch .init false .uZero :=
  accept_starts hf nofun rfl

/-- CTXWR starts on any engine without fault, bound or not. -/
theorem acceptCtxwr_of_ok (hf : e.FAULT = false) (v : Variant) :
    acceptCtxwr v e = (e.take.bind v).loadContext.launch .ctxwr false .uCtxin :=
  accept_starts hf nofun rfl

theorem acceptReset_of_ready (h : e.Ready) : acceptReset e = e.take.launch .reset false .uZero :=
  accept_starts h.1 (fun _ => h.2) rfl

theorem acceptCtxrd_of_ready (h : e.Ready) : acceptCtxrd e = e.take.launch .ctxrd false .uCtxout :=
  accept_starts h.1 (fun _ => h.2) rfl

/-! ## Commands of one micro-step (45_sequencer.md R163, R164, R170) -/

/-- An instruction and the turn after it, while the turn stays with the one instance. -/
theorem exec_then_turn (i : Instr) {s : State} (h : s.turns = []) :
    ∃ t, exec i s = .next t ∧
      core.run 1 t = .next (s.onSelf fun e => engineTurn s.fullBlock (unitOf s.fullBlock i e)) :=
  ⟨_, exec_eq i s, run_of_nil 1 (s := s.onSelf (unitOf s.fullBlock i)) h⟩

/-- Command i runs from s to an OK response without a digest in one micro-step after its acceptance: VSEL, S and DOUT end as v, m
and x, and the context ports show cv and c. -/
def RunsInOneStep (i : Instr) (s : State) (v : Variant) (m : Bytes 200) (x : Bytes 64) (cv : BitVec 2) (c : Bytes 200) : Prop :=
  ∃ t u, exec i s = .next t ∧ core.run 1 t = .next u ∧
    u.self.BOUND = true ∧ u.self.VSEL = v ∧ u.self.S = m ∧ u.self.DOUT = x ∧
    u.self.FAULT = false ∧ u.self.SEQ = Seq.rest ∧ u.self.BUSY = false ∧
    u.self.rsp = some (okResponse 0 x cv c) ∧ u.lower = s.lower ∧ u.upper = s.upper

/-- A command runs in one step when it starts on a live engine at a unit that responds. -/
theorem runsInOneStep_of_launch {i : Instr} {s : State} {b : Engine} {o : Opc} {ph : Phase} {v : Variant} {m : Bytes 200}
    {x : Bytes 64} {cv : BitVec 2} {c : Bytes 200} (ht : s.turns = [])
    (hi : unitOf s.fullBlock i s.self = b.launch o false ph) (hl : b.Live) (hu : b.Undisturbed) (hv : b.VSEL = v)
    (hp : ph ≠ .idle)
    (hg : unitOf s.fullBlock ph.instr (b.launch o false ph) =
      ({ b.launch o false ph with S := m, DOUT := x } : Engine).finish 0 cv c) :
    RunsInOneStep i s v m x cv c := by
  subst hv
  obtain ⟨t, hexec, hrun⟩ := exec_then_turn i ht
  obtain ⟨done, hS, hD, hrsp⟩ := turn_completes (e := b.launch o false ph) (d := 0) { hl with } hu hp hg
  refine ⟨t, _, hexec, hrun, ?_⟩
  rw [State.onSelf_self, hi]
  exact ⟨done.bound, done.vsel, hS, hD, done.fault, done.seq, done.busy, hrsp, rfl, rfl⟩

/-- Settles O51: each command starts on a live engine at the one unit of its micro-program, and that unit responds. -/
theorem lifecycleCommandsComplete : Obligations.LifecycleCommandsComplete := by
  intro s v hinv ⟨ht, hu⟩ hf
  have hc := hinv.cause_of_ok hf
  refine ⟨?init, ?ctxwr, fun hb => ⟨?reset, ?ctxrd⟩⟩
  case init =>
    exact runsInOneStep_of_launch ht (acceptInit_of_ok hf v) ⟨rfl, rfl, hf, hc⟩ hu rfl nofun (unitZero_eq _)
  case ctxwr =>
    exact runsInOneStep_of_launch ht (acceptCtxwr_of_ok hf v) ⟨rfl, rfl, hf, hc⟩ hu rfl nofun (unitCtxin_eq _)
  case reset =>
    exact runsInOneStep_of_launch ht (acceptReset_of_ready ⟨hf, hb⟩) ⟨rfl, hb, hf, hc⟩ hu rfl nofun (unitZero_eq _)
  case ctxrd =>
    exact runsInOneStep_of_launch ht (acceptCtxrd_of_ready ⟨hf, hb⟩) ⟨rfl, hb, hf, hc⟩ hu rfl nofun (unitCtxout_eq _)

/-! ## Clone (R97) -/

/-- The response that ends a CTXRD carries the variant and the state of its instance (R95). -/
theorem unitCtxout_context (hf : e.FAULT = false) {r : Response} (hr : (unitCtxout e).rsp = some r) :
    r.ctxVsel = e.VSEL.code ∧ r.ctxOut = e.S := by
  obtain rfl := Option.some.inj ((finish_rsp_of_ok hf 0 e.VSEL.code e.S).symm.trans hr)
  exact ⟨rfl, rfl⟩

/-- The turn after a CTXWR is accepted binds the engine to the variant named and takes the context from the port (R93, R96). -/
theorem turn_of_acceptCtxwr (hf : e.FAULT = false) (hr : e.rst = false) (v : Variant) :
    (engineTurn p (acceptCtxwr v e)).VSEL = v ∧ (engineTurn p (acceptCtxwr v e)).S = e.ctxIn ∧
      (engineTurn p (acceptCtxwr v e)).BOUND = true := by
  rw [acceptCtxwr_of_ok hf, engineTurn_of_phase (by exact hr) (by simp)]
  refine ⟨?_, ?_, ?_⟩
  all_goals simp [Phase.instr, unitOf, unitCtxin_eq]

/-- Settles O58: the CTXWR is given what the CTXRD's response carries. -/
theorem cloneCopies : Obligations.CloneCopies := by
  intro a b r a' haf ha har hbf ⟨hbt, hbu⟩ hport
  obtain rfl : a.onSelf unitCtxout = a' := Host.Outcome.next.inj ((exec_eq .uCtxout a).symm.trans ha)
  obtain ⟨hvsel, hctx⟩ := unitCtxout_context haf har
  obtain ⟨t, hexec, hrun⟩ := exec_then_turn (.ctxwr (Variant.ofCode r.ctxVsel)) hbt
  obtain ⟨hV, hS, hB⟩ := turn_of_acceptCtxwr (p := b.fullBlock) hbf hbu.1 (Variant.ofCode r.ctxVsel)
  refine ⟨?source, t, _, hexec, hrun, ?vsel, ?sponge, hB, rfl, rfl⟩
  case source => rw [← har]; rfl
  case vsel => exact hV.trans (by rw [hvsel, Variant.ofCode_code])
  case sponge => exact hS.trans (hport.trans hctx)

end Sys2Proof.Machine
end

section
/-! Block absorption (41_absorb.md): the unit U_XORIN (R101, R103), the all-zero block (R104), and the run of an ABSORB to its response
(R100, R102). -/

namespace Sys2Proof.Machine

/-! ## XorIn (R101, R103, R104) -/

/-- Settles O26: the rate region and the capacity region are the two cases of XorIn. -/
theorem xorinUnit : Obligations.XorinUnit := by
  intro s
  refine ⟨_, exec_eq .uXorin s, ?rate, ?capacity, ?frame⟩
  case rate => exact fun _ hk hr => xorIn_of_lt s.self.VSEL s.self.S s.self.BLK hk hr
  case capacity => exact fun _ hk hr => xorIn_of_ge s.self.VSEL s.self.S s.self.BLK hk hr
  case frame => simp only [State.onSelf, unitOf, unitXorin_eq]

/-- XorIn of the all-zero block: a zero byte changes nothing in the rate region, and the capacity region is kept anyway. -/
theorem xorIn_zeroBytes (v : Variant) (s : Bytes 200) : xorIn v s (zeroBytes 144) = s := by
  refine Vector.ext fun k hk => ?_
  by_cases hr : k < v.rate
  · have hb : k < 144 := hr.trans_le v.rate_le
    rw [xorIn_of_lt v s _ hb hr, zeroBytes_getElem hb]
    exact BitVec.xor_zero
  · exact xorIn_of_ge v s _ hk (Nat.le_of_not_lt hr)

/-- Settles O44: AbsorbF is the permutation after XorIn, which leaves S as it is. -/
theorem zeroBlockIsPermutation : Obligations.ZeroBlockIsPermutation := fun v s =>
  ⟨xorIn_zeroBytes v s, congrArg keccakP (xorIn_zeroBytes v s)⟩

/-! ## ABSORB from its acceptance to its response (R100, R102; 45_sequencer.md R165, R170) -/

/-- An instruction and the k turns after it, while the turn stays with the one instance. -/
theorem exec_then_turns (i : Instr) (k : Nat) {s : State} (h : s.turns = []) :
    ∃ t, exec i s = .next t ∧
      core.run k t = .next (s.onSelf fun e => (engineTurn s.fullBlock)^[k] (unitOf s.fullBlock i e)) :=
  ⟨_, exec_eq i s, run_of_nil k (s := s.onSelf (unitOf s.fullBlock i)) h⟩

/-- Settles O52: the acceptance starts the micro-program on a live engine with the block of the port in BLK, and 99 turns take it
from U_XORIN to its response. -/
theorem absorbCompletes : Obligations.AbsorbCompletes := by
  rintro s _ hinv ⟨ht, hu⟩ hready rfl
  have hstart : unitOf s.fullBlock (.absorb s.self.VSEL.rate) s.self = startAbsorb s.self.take :=
    acceptAbsorb_of_ready hready
  have hcause : s.self.CAUSE = .none := hinv.cause_of_ok hready.1
  have hlive : (startAbsorb s.self.take).Live := ⟨rfl, hready.2, hready.1, hcause⟩
  obtain ⟨_, rfl, done, hS, hD, hrsp⟩ := turns_of_absorb (p := s.fullBlock) hlive hu rfl rfl
  obtain ⟨t, hexec, hrun⟩ := exec_then_turns (.absorb s.self.VSEL.rate) 99 ht
  refine ⟨t, _, hexec, hrun, ?_⟩
  rw [State.onSelf_self, State.onSelf_lower, State.onSelf_upper, hstart]
  exact ⟨hS, hD, done.vsel, done.bound, done.fault, done.cause.trans hcause.symm, done.seq, done.busy, hrsp, rfl, rfl⟩

end Sys2Proof.Machine
end

section
/-! Padding and finalization (42_pad_final.md): the units U_PAD, U_NEWBLK and U_EXTRACT (R113 to R116), FINAL of a full block (R111),
and the run of a FINAL to its response (R110, R112, R118). -/

namespace Sys2Proof.Machine

/-! ## The run of a FINAL (R110, R112, R118; 45_sequencer.md R166, R167, R170) -/

/-- A FINAL that starts on a ready engine runs on a live one. -/
theorem startFinal_take_live {e : Engine} {len : Nat} (h : e.Ready) (hc : e.CAUSE = .none) : (startFinal len e.take).Live := by
  rw [startFinal_eq]
  exact ⟨rfl, h.2, h.1, hc⟩

/-- Settles O53: the acceptance starts the micro-program on a live engine with the block of the port in BLK, and its turns take it
from where it starts to the response. -/
theorem finalCompletes : Obligations.FinalCompletes := by
  intro s len hinv ⟨ht, hu⟩ hready hle hp
  have hstart : unitOf s.fullBlock (.final len) s.self = startFinal len s.self.take := acceptFinal_of_ready hready hle hp
  have hcause : s.self.CAUSE = .none := hinv.cause_of_ok hready.1
  have hu' : (startFinal len s.self.take).Undisturbed := by
    rw [startFinal_eq]
    exact hu
  have hend := turns_of_final (p := s.fullBlock) (len := len) (startFinal_take_live hready hcause) hu'
  simp only [startFinal_VSEL, startFinal_S, startFinal_BLK, startFinal_LEN, Engine.take_VSEL, Engine.take_S,
    Engine.take_blkIn] at hend
  obtain ⟨_, rfl, done, hdigest, hrsp⟩ := hend (startFinal_SEQ len s.self.take) (toNat_len_of_le hle) hle
  obtain ⟨t, hexec, hrun⟩ := exec_then_turns (.final len) (finalTurns len s.self.VSEL.rate) ht
  refine ⟨t, _, hexec, hrun, ?_⟩
  rw [State.onSelf_self, State.onSelf_lower, State.onSelf_upper, hstart, ← hdigest]
  exact ⟨rfl, done.vsel, done.bound, done.fault, done.cause.trans hcause.symm, done.seq, done.busy, hrsp, rfl, rfl⟩

/-- Settles O46. -/
theorem fullFinalIsAbsorbThenFinal : Obligations.FullFinalIsAbsorbThenFinal := finalF_rate

/-! ## U_PAD (R113, R116) -/

/-- Two ORs into bytes of BLK commute, into the same byte too: U_PAD's steps 2 and 3 (R113, R116). -/
theorem orByte_comm (i j : Nat) (x y : Byte) (b : Bytes 144) : orByte i x (orByte j y b) = orByte j y (orByte i x b) := by
  refine Vector.ext fun k hk => ?_
  simp only [orByte_getElem]
  by_cases hi : k = i
  · by_cases hj : k = j
    · rw [if_pos hi, if_pos hj, if_pos hj, if_pos hi, BitVec.or_assoc, BitVec.or_comm y, ← BitVec.or_assoc]
    · simp only [if_pos hi, if_neg hj]
  · simp only [if_neg hi]

/-- Settles O36: byte by byte for PadF, and because ORs commute for their order. -/
theorem padStepsGivePadF : Obligations.PadStepsGivePadF := fun v b L hL =>
  ⟨padSteps_eq_padF v b hL, orByte_comm L (v.rate - 1) v.suffix 0x80 (padZero v.rate L b)⟩

/-- The padded block: the message bytes, the suffix, zeros and the final bit, with one byte for both when L is the last position;
what lies past the rate is kept (R113). -/
theorem padSteps_getElem (v : Variant) (b : Bytes 144) {L k : Nat} (hL : L < v.rate) (hk : k < 144) :
    (padSteps v b L)[k] =
      if k < L then b[k]
      else if v.rate ≤ k then b[k]
      else if k = L then (if k = v.rate - 1 then 0x86 else 0x06)
      else if k = v.rate - 1 then 0x80
      else 0x00 := by
  simp only [padSteps_eq_padF v b hL, padF_getElem]
  obtain h | h | ⟨h, h'⟩ | ⟨h, h'⟩ | ⟨h, h'⟩ | ⟨h, h'⟩ : k < L ∨ v.rate ≤ k ∨ (k = L ∧ k = v.rate - 1) ∨
      (k = L ∧ k < v.rate - 1) ∨ (L < k ∧ k = v.rate - 1) ∨ (L < k ∧ k < v.rate - 1) := by omega
  all_goals simp (disch := omega) only [if_pos, if_neg]

theorem unitPad_BLK_of_lt {e : Engine} (h : e.LEN.toNat < e.VSEL.rate) : (unitPad e).BLK = padSteps e.VSEL e.BLK e.LEN.toNat := by
  rw [unitPad_of_lt h]

/-- Settles O35: BLK byte by byte where U_PAD has a result; what else it writes does not depend on LEN. -/
theorem padUnit : Obligations.PadUnit := by
  intro s
  have hexec : exec .uPad s = .next (s.onSelf unitPad) := exec_eq .uPad s
  refine ⟨_, hexec, ?block, ?frame⟩
  case block =>
    intro hL k hk
    simp only [State.onSelf_self, unitPad_BLK_of_lt hL]
    exact padSteps_getElem s.self.VSEL s.self.BLK hL hk
  case frame => rfl

/-! ## U_NEWBLK and U_EXTRACT (R114, R115) -/

/-- Settles O37. -/
theorem newBlockUnit : Obligations.NewBlockUnit := exec_eq .uNewblk

/-- Settles O38: the unit writes DOUT from S and responds with it. -/
theorem extractUnit : Obligations.ExtractUnit := by
  intro s
  have hexec : exec .uExtract s = .next (s.onSelf unitExtract) := exec_eq .uExtract s
  refine ⟨_, hexec, ?digest, ?response, ?frame⟩
  case digest => exact fun _ hk => extract_getElem s.self.VSEL s.self.S hk
  case response =>
    intro hf
    simp only [State.onSelf_self, unitExtract_eq]
    exact finish_rsp_of_ok (e := { s.self with DOUT := extract s.self.VSEL s.self.S }) hf _ 0 (zeroBytes 200)
  case frame => simp only [State.onSelf, unitExtract_eq, finish_eq]

end Sys2Proof.Machine
end

section
/-! The permutation Keccak-f[1600] (43_permutation.md): its tables (R132, R137), the rotation of a lane (R141), the in-place form of
the merged step (R134), and the four units (R131, R133, R135, R136). -/

namespace Sys2Proof.Machine

/-! ## The tables (R132, R137) -/

/-- The destination of a lane by its coordinates (R132). -/
theorem PIDST_coords (x y : Fin 5) : (PIDST[5 * y.val + x.val]).val = 5 * ((2 * x.val + 3 * y.val) % 5) + y.val := by
  revert x y; decide

/-- PISRC undoes PIDST (R132). -/
theorem PISRC_PIDST (i : Fin 25) : PISRC[PIDST[i]] = i := by
  revert i; decide

/-- The merged step leaves position 0 alone where it is (R132, R133). -/
theorem PIDST_eq_self_iff (i : Fin 25) : PIDST[i] = i ↔ i = 0 := by
  revert i; decide

/-- The rotation amounts along the cycle of PIDST from (1, 0) are the triangular numbers mod 64 (R132). -/
theorem ROT_iterate_PIDST (t : Fin 24) :
    ROT[(fun i => PIDST[i])^[t.val] (1 : Fin 25)] = (t.val + 1) * (t.val + 2) / 2 % 64 := by
  revert t; decide

/-- The round constants as the spec lists them (R137). -/
theorem RC_eq : RC =
    #v[0x1, 0x8082, 0x800000000000808A, 0x8000000080008000, 0x808B, 0x80000001, 0x8000000080008081, 0x8000000000008009,
      0x8A, 0x88, 0x80008009, 0x8000000A, 0x8000808B, 0x800000000000008B, 0x8000000000008089, 0x8000000000008003,
      0x8000000000008002, 0x8000000000000080, 0x800A, 0x800000008000000A, 0x8000000080008081, 0x8000000000008080,
      0x80000001, 0x8000000080008008] := by
  decide

/-- A round constant has a set bit at a position 2^j - 1 only (R137). -/
theorem RC_bits (ir : Fin 24) (z : Fin 64) (h : RC[ir].getLsbD z.val = true) : ∃ j : Fin 7, z.val = 2 ^ j.val - 1 := by
  revert ir z; decide

/-- Settles O31: the tables by their lemmas, and the constants read off the list. -/
theorem rhoPiTables : Obligations.RhoPiTables := by
  refine ⟨PIDST_coords, PISRC_PIDST, PIDST_eq_self_iff, rfl, ROT_iterate_PIDST, RC_bits, ?constants⟩
  case constants =>
    rw [RC_eq]
    decide

/-! ## The rotation of a lane (R141) -/

/-- Bit j goes to bit (j + n) mod 64: a high bit wraps round to below n, the others go up by n. -/
theorem rotl64_getLsbD (v : Lane) {n j : Nat} (hn : n < 64) (hj : j < 64) :
    (rotl64 v n).getLsbD ((j + n) % 64) = v.getLsbD j := by
  rw [rotl64, BitVec.getLsbD_rotateLeft_of_le hn]
  by_cases h : j + n < 64
  · have hm : (j + n) % 64 = j + n := Nat.mod_eq_of_lt h
    simp [hm, h]
  · have hm : (j + n) % 64 = j + n - 64 := by omega
    have hlow : j + n - 64 < n := by omega
    have hback : 64 - n + (j + n - 64) = j := by omega
    simp [hm, hlow, hback]

/-- Rotation by 0 moves no bit. -/
theorem rotl64_zero (v : Lane) : rotl64 v 0 = v := by
  refine BitVec.eq_of_getLsbD_eq fun j hj => ?_
  have hbit := rotl64_getLsbD v (n := 0) (by decide) hj
  rwa [Nat.add_zero, Nat.mod_eq_of_lt hj] at hbit

/-- Settles O43. -/
theorem rotationMovesEveryBit : Obligations.RotationMovesEveryBit := fun v =>
  ⟨rotl64_zero v, fun _ _ => rotl64_getLsbD v⟩

/-! ## The merged step in place (R134) -/

/-- One move of the in-place form: the lane at the source, rotated, into the target. -/
def moveLane (a : Lanes) (m : Fin 25 × Fin 25 × Nat) : Lanes := a.set m.1 (rotl64 a[m.2.1] m.2.2)

theorem moveLane_target (a : Lanes) (m : Fin 25 × Fin 25 × Nat) : (moveLane a m)[m.1] = rotl64 a[m.2.1] m.2.2 :=
  Vector.getElem_set_self ..

theorem moveLane_of_ne (a : Lanes) {m : Fin 25 × Fin 25 × Nat} {j : Fin 25} (h : j ≠ m.1) : (moveLane a m)[j] = a[j] :=
  Vector.getElem_set_ne _ _ (Fin.val_ne_of_ne h.symm)

/-- The in-place form is its moves, then the temporary into position 7. -/
theorem rhoPiInPlace_eq (a : Lanes) : rhoPiInPlace a = (rhoPiMoves.foldl moveLane a).set 7 (rotl64 a[10] 3) := rfl

/-- Moves keep a lane that is no target of theirs. -/
theorem foldl_moveLane_of_ne {ms : List (Fin 25 × Fin 25 × Nat)} {j : Fin 25} (h : ∀ m ∈ ms, j ≠ m.1) (a : Lanes) :
    (ms.foldl moveLane a)[j] = a[j] := by
  induction ms generalizing a with
  | nil => rfl
  | cons m ms ih =>
    obtain ⟨hm, hms⟩ := List.forall_mem_cons.1 h
    rw [List.foldl_cons, ih hms, moveLane_of_ne a hm]

/-- The order of the moves is right: what a move has written, no later move reads or overwrites. -/
def MovesInOrder (ms : List (Fin 25 × Fin 25 × Nat)) : Prop := ms.Pairwise fun m m' => m'.2.1 ≠ m.1 ∧ m.1 ≠ m'.1

/-- In such an order every move moves an old lane, and its target keeps it. -/
theorem foldl_moveLane_of_mem {ms : List (Fin 25 × Fin 25 × Nat)} (h : MovesInOrder ms) {m : Fin 25 × Fin 25 × Nat}
    (hm : m ∈ ms) (a : Lanes) : (ms.foldl moveLane a)[m.1] = rotl64 a[m.2.1] m.2.2 := by
  induction ms generalizing a with
  | nil => cases hm
  | cons m' ms ih =>
    obtain ⟨hfirst, hrest⟩ := List.pairwise_cons.1 h
    rw [List.foldl_cons]
    obtain rfl | hm := List.mem_cons.1 hm
    · rw [foldl_moveLane_of_ne fun n hn => (hfirst n hn).2, moveLane_target]
    · rw [ih hrest hm, moveLane_of_ne a (hfirst m hm).1]

theorem rhoPiMoves_inOrder : MovesInOrder rhoPiMoves := by
  unfold MovesInOrder; decide

/-- The moves give every lane but 0 and 7 the old lane and the rotation that the scratch-copy form gives it. -/
theorem mem_rhoPiMoves (j : Fin 25) : j = 0 ∨ j = 7 ∨ (j, PISRC[j], ROT[PISRC[j]]) ∈ rhoPiMoves := by
  revert j; decide

/-- The in-place form, lane by lane: lane 0 is never written, lane 7 gets the temporary, every other lane is a target of a move. -/
theorem rhoPiInPlace_getElem (a : Lanes) (j : Fin 25) : (rhoPiInPlace a)[j] = rotl64 a[PISRC[j]] ROT[PISRC[j]] := by
  rw [rhoPiInPlace_eq]
  by_cases h7 : j = 7
  · subst h7
    exact Vector.getElem_set_self ..
  have hset : ((rhoPiMoves.foldl moveLane a).set 7 (rotl64 a[10] 3))[j] = (rhoPiMoves.foldl moveLane a)[j] :=
    Vector.getElem_set_ne _ _ (Fin.val_ne_of_ne (Ne.symm h7))
  rw [hset]
  obtain rfl | h | hm := mem_rhoPiMoves j
  · rw [foldl_moveLane_of_ne (by decide)]
    exact (rotl64_zero a[0]).symm
  · exact absurd h h7
  · exact foldl_moveLane_of_mem rhoPiMoves_inOrder hm a

/-- Settles O32: the two forms agree lane by lane. -/
theorem rhoPiInPlaceAgrees : Obligations.RhoPiInPlaceAgrees := fun a => Vector.ext fun j hj =>
  (rhoPiInPlace_getElem a ⟨j, hj⟩).trans (rhoPi_getElem a hj).symm

/-! ## The units (R131, R133, R135, R136) -/

/-- Theta by coordinates: the correction of column x from the parities of its neighbours (R131). -/
theorem theta_coords (a : Lanes) (x y : Fin 5) :
    (theta a)[5 * y.val + x.val] =
      a[5 * y.val + x.val] ^^^ (thetaC a (x + 4 : Fin 5).val ^^^ rotl64 (thetaC a (x + 1 : Fin 5).val) 1) := by
  have hx : (5 * y.val + x.val) % 5 = x.val := by omega
  rw [theta_getElem, hx, Fin.val_add, Fin.val_add]
  rfl

/-- Settles O29: the parities of the columns are sums of old lanes. -/
theorem thetaUnit : Obligations.ThetaUnit := by
  intro s
  refine ⟨_, exec_eq .uTheta s, ?lanes, ?frame⟩
  case lanes =>
    intro a C D x y
    have hC (x : Fin 5) : thetaC a x.val = C x := thetaC_of_lt a x.isLt
    have h := theta_coords a x y
    rw [hC, hC] at h
    exact h
  case frame => simp only [State.onSelf, unitOf, unitTheta_eq]

/-- RhoPi in the form that says where each old lane goes (R133). -/
theorem rhoPi_PIDST (a : Lanes) (i : Fin 25) : (rhoPi a)[PIDST[i]] = rotl64 a[i] ROT[i] := by
  have h : (rhoPi a)[PIDST[i]] = rotl64 a[PISRC[PIDST[i]]] ROT[PISRC[PIDST[i]]] := rhoPi_getElem a PIDST[i].isLt
  simpa only [PISRC_PIDST] using h

/-- The same by coordinates (R132, R133). -/
theorem rhoPi_coords (a : Lanes) (x y : Fin 5) :
    (rhoPi a)[5 * ((2 * x.val + 3 * y.val) % 5) + y.val]'(by omega) =
      rotl64 a[5 * y.val + x.val] ROT[5 * y.val + x.val] := by
  have h := rhoPi_PIDST a ⟨5 * y.val + x.val, by omega⟩
  simpa only [Fin.getElem_fin, PIDST_coords] using h

/-- Settles O30: where an old lane goes, by position and by coordinates; position 0 goes to itself, rotated by 0. -/
theorem rhoPiUnit : Obligations.RhoPiUnit := by
  intro s
  refine ⟨_, exec_eq .uRhopi s, ?position, ?coords, ?zero, ?frame⟩
  case position => exact rhoPi_PIDST s.self.A
  case coords => exact rhoPi_coords s.self.A
  case zero => exact (rhoPi_PIDST s.self.A 0).trans (rotl64_zero s.self.A[0])
  case frame => simp only [State.onSelf, unitOf, unitRhopi_eq]

/-- Settles O33: the neighbours in the row, mod 5. -/
theorem chiUnit : Obligations.ChiUnit := by
  intro s
  refine ⟨_, exec_eq .uChi s, ?lanes, ?frame⟩
  case lanes =>
    intro x y
    simp only [Fin.val_add]
    exact chi_getElem s.self.A x.isLt y.isLt
  case frame => simp only [State.onSelf, unitOf, unitChi_eq]

/-- U_IOTA in one record: which phase comes next, with which round, is the one thing that depends on the round (R136, 45_sequencer.md
R161). -/
theorem unitIota_eq (e : Engine) : ∃ q : Seq,
    unitIota e = { e with A := iota e.A e.SEQ.RND, SEQ := q, rsp := none } ∧ q.OPC = e.SEQ.OPC ∧ q.PASS = e.SEQ.PASS ∧
      (e.SEQ.RND.val < 23 → q.PHASE = .uTheta ∧ q.RND.val = e.SEQ.RND.val + 1) ∧
      (e.SEQ.RND.val = 23 → q.PHASE = .uL2b ∧ q.RND = 0) := by
  by_cases h : e.SEQ.RND.val < 23
  · exact ⟨_, unitIota_of_lt h, rfl, rfl, fun _ => ⟨rfl, rfl⟩, fun heq => absurd heq h.ne⟩
  · exact ⟨_, unitIota_of_eq h, rfl, rfl, fun hlt => absurd hlt h, fun _ => ⟨rfl, rfl⟩⟩

/-- Settles O34: the lanes by Iota, the sequencer by U_IOTA's record. -/
theorem iotaUnit : Obligations.IotaUnit := by
  intro s
  obtain ⟨q, hunit, hopc, hpass, hnext, hlast⟩ := unitIota_eq s.self
  have hself : (s.onSelf unitIota).self = _ := hunit
  refine ⟨s.onSelf unitIota, exec_eq .uIota s, ?_⟩
  rw [hself]
  refine ⟨?zero, ?others, hnext, hlast, hopc, hpass, ?frame⟩
  case zero => exact iota_getElem s.self.A s.self.SEQ.RND (i := 0) (by decide)
  case others => exact fun i hi hne => (iota_getElem s.self.A s.self.SEQ.RND hi).trans (if_neg hne)
  case frame => simp only [State.onSelf, hunit]

end Sys2Proof.Machine
end

section
/-! The transcoder (44_transcoder.md): the units U_B2L (R150) and U_L2B (R151), and the round trip between bytes and lanes (R152). -/

namespace Sys2Proof.Machine

/-! ## Bytes to lanes (R150) -/

/-- A little-endian read is the sum of its eight bytes by weight: each byte is ORed in above those before it. -/
theorem memRead8_toNat (s : Bytes 200) (k : Nat) (h : k + 8 ≤ 200) :
    (memRead8 s k h).toNat =
      s[k].toNat + s[k + 1].toNat * 2 ^ 8 + s[k + 2].toNat * 2 ^ 16 + s[k + 3].toNat * 2 ^ 24 + s[k + 4].toNat * 2 ^ 32 +
      s[k + 5].toNat * 2 ^ 40 + s[k + 6].toNat * 2 ^ 48 + s[k + 7].toNat * 2 ^ 56 := by
  have e0 : (s[k].setWidth 64).toNat = s[k].toNat := BitVec.toNat_setWidth_of_le (by decide)
  have b0 : (s[k].setWidth 64).toNat < 2 ^ 8 := e0 ▸ s[k].isLt
  obtain ⟨e1, b1⟩ := toNat_or_shifted s[k + 1] 8 _ b0 (by decide)
  obtain ⟨e2, b2⟩ := toNat_or_shifted s[k + 2] 16 _ b1 (by decide)
  obtain ⟨e3, b3⟩ := toNat_or_shifted s[k + 3] 24 _ b2 (by decide)
  obtain ⟨e4, b4⟩ := toNat_or_shifted s[k + 4] 32 _ b3 (by decide)
  obtain ⟨e5, b5⟩ := toNat_or_shifted s[k + 5] 40 _ b4 (by decide)
  obtain ⟨e6, b6⟩ := toNat_or_shifted s[k + 6] 48 _ b5 (by decide)
  obtain ⟨e7, -⟩ := toNat_or_shifted s[k + 7] 56 _ b6 (by decide)
  rw [memRead8, e7, e6, e5, e4, e3, e2, e1, e0]

/-- Settles O27: each lane is a little-endian read, whose value is the sum. -/
theorem bytesToLanesUnit : Obligations.BytesToLanesUnit := by
  intro s
  have hexec : exec .uB2l s = .next (s.onSelf unitB2l) := exec_eq .uB2l s
  refine ⟨_, hexec, ?lanes, ?frame⟩
  case lanes =>
    intro i hi
    simp only [State.onSelf_self, unitB2l_eq, b2l_getElem s.self.S hi]
    exact memRead8_toNat s.self.S (8 * i) (by omega)
  case frame => simp only [State.onSelf, unitB2l_eq]

/-! ## Lanes to bytes (R151) -/

/-- L2B by lane and byte of the lane. -/
theorem l2b_lane_byte (a : Lanes) {i j : Nat} (hi : i < 25) (hj : j < 8) : (l2b a)[8 * i + j] = laneByte a[i] j := by
  have hlane : (8 * i + j) / 8 = i := by omega
  have hbyte : (8 * i + j) % 8 = j := by omega
  simp only [l2b_getElem a (k := 8 * i + j) (by omega), hlane, hbyte]

/-- What a response shows depends on neither S nor SEQ (10_state.md R32). -/
theorem response_atRest_sponge (e : Engine) (s : Bytes 200) (d : BitVec 7) (v : BitVec 2) (c : Bytes 200) :
    ({ e with S := s } : Engine).atRest.response d v c = ({ e with BUSY := false } : Engine).response d v c := by
  unfold Engine.response Engine.status Engine.atRest
  rfl

/-- Settles O28: the bytes by L2B, whatever phase comes next; the sequencer by each row that R161 has for OPC and PASS. -/
theorem lanesToBytesUnit : Obligations.LanesToBytesUnit := by
  intro s
  have hexec : exec .uL2b s = .next (s.onSelf unitL2b) := exec_eq .uL2b s
  have hS : (unitL2b s.self).S = l2b s.self.A := by rw [unitL2b_frame]
  refine ⟨_, hexec, ?bytes, ?frame, ?absorb, ?first, ?last⟩
  case bytes =>
    intro i hi j hj
    simp only [State.onSelf_self, hS]
    exact l2b_lane_byte s.self.A hi hj
  case frame =>
    simp only [State.onSelf_self, hS]
    exact congrArg (fun e => s.onSelf fun _ => e) (unitL2b_frame s.self)
  case absorb =>
    intro ho
    rw [State.onSelf_self, unitL2b_absorb ho]
    exact ⟨rfl, rfl, congrArg some (response_atRest_sponge s.self (l2b s.self.A) 0 0 (zeroBytes 200))⟩
  case first =>
    intro ho hp
    rw [State.onSelf_self, unitL2b_first ho hp]
    exact ⟨rfl, rfl, rfl⟩
  case last =>
    intro ho hp
    rw [State.onSelf_self, unitL2b_last ho hp]
    exact ⟨rfl, rfl, rfl⟩

/-! ## The round trip (R152) -/

/-- Byte j of a little-endian read is the j-th byte read. -/
theorem laneByte_memRead8 (s : Bytes 200) (k : Nat) (h : k + 8 ≤ 200) {j : Nat} (hj : j < 8) :
    laneByte (memRead8 s k h) j = s[k + j] := by
  refine BitVec.eq_of_getLsbD_eq fun b hb => ?_
  have hdiv : (8 * j + b) / 8 = j := by omega
  have hmod : (8 * j + b) % 8 = b := by omega
  simp only [laneByte_getLsbD _ j hb, memRead8_getLsbD s k h (z := 8 * j + b) (by omega), hdiv, hmod]

/-- From bytes to lanes and back. -/
theorem l2b_b2l (s : Bytes 200) : l2b (b2l s) = s := by
  refine Vector.ext fun k hk => ?_
  have hpos : 8 * (k / 8) + k % 8 = k := Nat.div_add_mod k 8
  rw [l2b_getElem _ hk, b2l_getElem s (by omega), laneByte_memRead8 s _ _ (Nat.mod_lt k (by decide))]
  simp only [hpos]

/-- From lanes to bytes and back: bit z of a lane is bit z mod 8 of its byte z div 8. -/
theorem b2l_l2b (a : Lanes) : b2l (l2b a) = a := by
  refine Vector.ext fun i hi => BitVec.eq_of_getLsbD_eq fun z hz => ?_
  have hz8 : z % 8 < 8 := Nat.mod_lt z (by decide)
  rw [b2l_getElem _ hi, memRead8_getLsbD _ _ _ hz, l2b_lane_byte a hi (by omega), laneByte_getLsbD _ _ hz8,
    Nat.div_add_mod]

/-- Settles O41. -/
theorem transcoderRoundTrip : Obligations.TranscoderRoundTrip := ⟨l2b_b2l, b2l_l2b⟩

end Sys2Proof.Machine
end

section
/-! The sequencer (45_sequencer.md): what a step runs (R160), what an acceptance starts (R162), and that every running command comes
to its response (R171, R172). -/

namespace Sys2Proof.Machine

variable {p : FullBlockFinal} {e : Engine} {s : State}

/-! ## A running command responds (R163 to R167, R171; 70_reset_and_hazards.md R221) -/

/-- Steps are left exactly while a command runs. -/
theorem Seq.stepsLeft_pos_iff {q : Seq} : 0 < q.stepsLeft ↔ q.PHASE ≠ .idle := by
  refine ⟨Seq.phase_ne_idle_of_stepsLeft_pos, fun hp => ?_⟩
  have hr := q.RND.isLt
  cases hq : q.PHASE <;> simp only [Seq.stepsLeft, hq]
  case idle => exact absurd hq hp
  all_goals omega

theorem Seq.stepsAfterAbsorb_le (q : Seq) : q.stepsAfterAbsorb ≤ 102 := by
  unfold Seq.stepsAfterAbsorb
  split <;> decide

/-- The longest micro-program is a FINAL of a full block (R167). -/
theorem Seq.stepsLeft_le (q : Seq) : q.stepsLeft ≤ 201 := by
  have ha := q.stepsAfterAbsorb_le
  unfold Seq.stepsLeft
  split <;> omega

/-- No response stands while a command runs (10_state.md R32). -/
theorem Engine.Inv.rsp_of_running (h : e.Inv p) (hp : e.SEQ.PHASE ≠ .idle) : e.rsp = none :=
  Option.eq_none_iff_forall_ne_some.mpr fun r hr => hp (h.response r hr).1

/-- The unit of the last step responds: the one unit of a lifecycle command, U_EXTRACT, or the U_L2B of an ABSORB (R161). -/
theorem unitOf_responds (h : e.Inv p) (hl : e.SEQ.stepsLeft = 1) : (unitOf p e.SEQ.PHASE.instr e).rsp.isSome = true := by
  have hr := e.SEQ.RND.isLt
  cases hq : e.SEQ.PHASE <;> simp only [Seq.stepsLeft, hq] at hl
  case uZero | uExtract | uCtxout | uCtxin => rfl
  case uL2b =>
    have ho : e.SEQ.OPC = .absorb := by
      refine (h.opc_of_inAbsorb (by rw [hq]; rfl)).resolve_right fun ho => ?_
      cases hs : e.SEQ.PASS <;> simp [Seq.stepsAfterAbsorb, ho, hs] at hl
    exact congrArg (·.rsp.isSome) (unitL2b_absorb ho)
  all_goals omega

/-- No hard reset comes by a step in the middle of a command. -/
theorem Engine.Undisturbed.engineTurn (hu : e.Undisturbed) (hp : e.SEQ.PHASE ≠ .idle) : (engineTurn p e).Undisturbed := by
  obtain ⟨hr, hh⟩ := hu
  obtain ⟨hrst, -, -, -, -, hhost⟩ := ports_eq_iff.mp (unitOf_ports (p := p) (e := e) hp)
  rw [engineTurn_of_phase hr hp]
  exact undisturbed_hostMoves ⟨hrst.trans hr, hhost ▸ hh⟩

/-- Each turn of a running command leaves one step less, until none is left. -/
theorem stepsLeft_engineTurns (k : Nat) (h : e.Inv p) (hu : e.Undisturbed) (hk : k ≤ e.SEQ.stepsLeft) :
    ((engineTurn p)^[k] e).Inv p ∧ ((engineTurn p)^[k] e).Undisturbed ∧
      ((engineTurn p)^[k] e).SEQ.stepsLeft + k = e.SEQ.stepsLeft := by
  induction k generalizing e with
  | zero => exact ⟨h, hu, rfl⟩
  | succ k ih =>
    have hp : e.SEQ.PHASE ≠ .idle := Seq.stepsLeft_pos_iff.mp (by omega)
    have hleft := stepsLeft_engineTurn h hu.1 hp
    obtain ⟨hinv, hund, hsum⟩ := ih h.engineTurn (hu.engineTurn hp) (by omega)
    rw [Function.iterate_succ_apply]
    exact ⟨hinv, hund, by omega⟩

/-- Before its last step a running command is still busy and has not responded. -/
theorem engineTurns_busy {k : Nat} (h : e.Inv p) (hu : e.Undisturbed) (hk : k < e.SEQ.stepsLeft) :
    ((engineTurn p)^[k] e).BUSY = true ∧ ((engineTurn p)^[k] e).rsp = none := by
  obtain ⟨hinv, -, hsum⟩ := stepsLeft_engineTurns k h hu hk.le
  have hp := Seq.stepsLeft_pos_iff.mp (show 0 < ((engineTurn p)^[k] e).SEQ.stepsLeft by omega)
  exact ⟨hinv.busy.mpr hp, hinv.rsp_of_running hp⟩

/-- The turn of the last step ends at a command boundary, with the response. -/
theorem engineTurn_responds (h : e.Inv p) (hu : e.Undisturbed) (hl : e.SEQ.stepsLeft = 1) :
    (engineTurn p e).BUSY = false ∧ (engineTurn p e).SEQ = Seq.rest ∧ (engineTurn p e).rsp.isSome = true := by
  have hp : e.SEQ.PHASE ≠ .idle := Seq.stepsLeft_pos_iff.mp (by omega)
  have hleft := stepsLeft_engineTurn h hu.1 hp
  have hidle : (engineTurn p e).SEQ.PHASE = .idle := by
    by_contra hn
    have := Seq.stepsLeft_pos_iff.mpr hn
    omega
  obtain ⟨hseq, hbusy⟩ := h.engineTurn.at_boundary hidle
  refine ⟨hbusy, hseq, ?_⟩
  rw [engineTurn_of_phase hu.1 hp, Engine.hostMoves_rsp]
  exact unitOf_responds h hl

/-- Settles O50: every turn leaves one step less; with one left its unit responds. -/
theorem commandResponds : Obligations.CommandResponds := by
  intro s h ⟨ht, hu⟩ hb
  have hpos := Seq.stepsLeft_pos_iff.mpr (h.busy.mp hb)
  refine ⟨hpos, s.self.SEQ.stepsLeft_le, fun k hk => ?before, ?response⟩
  case before =>
    obtain ⟨hbusy, hrsp⟩ := engineTurns_busy h hu hk
    exact ⟨_, run_of_nil k ht, hbusy, fun _ => hrsp⟩
  case response =>
    obtain ⟨n, hn⟩ := Nat.exists_eq_add_one.mpr hpos
    obtain ⟨hinv, hund, hsum⟩ := stepsLeft_engineTurns n h hu (by omega)
    rw [hn]
    refine ⟨_, run_of_nil (n + 1) ht, ?_⟩
    rw [State.onSelf_self, Function.iterate_succ_apply']
    exact engineTurn_responds hinv hund (by omega)

/-! ## What a step runs (R160, R162) -/

/-- A step is the instruction fetched and what surrounds it. -/
theorem step_of_fetch {i : Instr} {t : State} (hf : s.self.fetch = .run i) (ht : exec i s = .next t) :
    step s = .next t.after := by
  unfold step
  simp only [hf, ht]

/-- The legal word offered to an idle engine is fetched. -/
theorem fetch_of_offer {i : Instr} (hr : e.rst = false) (hp : e.SEQ.PHASE = .idle) (hv : e.cmdValid = true)
    (hb : e.BUSY = false) (hd : decodeCommand e.cmd = .ok i) : e.fetch = .run i := by
  rw [fetch_of_idle hr hp]
  simp [Engine.fetchIdle, Engine.offered, Engine.cmdReady, hv, hb, hd]

/-- With nothing to accept IDLE is fetched. -/
theorem fetch_of_not_offered (hr : e.rst = false) (hp : e.SEQ.PHASE = .idle) (hn : ¬ (e.cmdValid = true ∧ e.BUSY = false)) :
    e.fetch = .run .idle := by
  obtain ⟨hv, hb, -⟩ | ⟨hv, hb, -⟩ | ⟨-, hf⟩ := fetch_cases hr hp
  · exact absurd ⟨hv, hb⟩ hn
  · exact absurd ⟨hv, hb⟩ hn
  · exact hf

theorem not_offered_iff : ¬ (e.cmdValid = true ∧ e.BUSY = false) ↔ e.cmdValid = false ∨ e.BUSY = true := by
  rw [not_and_or, Bool.not_eq_true, Bool.not_eq_false]

/-- Settles O6: in each of the three places the instruction is the one fetched. -/
theorem stepRunsInstruction : Obligations.StepRunsInstruction := by
  intro s i hr hi t ht
  have hf : s.self.fetch = .run i := by
    obtain ⟨hp, rfl⟩ | ⟨hp, hv, hb, hd⟩ | ⟨hp, hn, rfl⟩ := hi
    · exact fetch_of_phase hr hp
    · exact fetch_of_offer hr hp hv hb hd
    · exact fetch_of_not_offered hr hp (not_offered_iff.mpr hn)
  exact step_of_fetch hf ht

/-- The decoder of the table's words goes by the code a word stands for. -/
theorem decodeTableWord_eq_some_iff {nbits w : Nat} {i : Instr} :
    decodeTableWord nbits w = some i ↔ ∃ c, tableCode nbits w = some c ∧ decode c = .ok i := by
  unfold decodeTableWord
  cases tableCode nbits w with
  | none => simp
  | some c => cases hd : decode c <;> simp [hd]

/-- A phase placed is fetched. -/
theorem fetch_placePhase (ph : Phase) (e : Engine) : (e.placePhase ph).fetch = .run ph.instr := by
  by_cases hp : ph = .idle
  · subst hp
    exact fetch_of_not_offered rfl rfl nofun
  · have hplace : e.placePhase ph = { e with rst := false, SEQ := { e.SEQ with PHASE := ph } } := by
      unfold Engine.placePhase
      split
      · contradiction
      · rfl
    rw [hplace]
    exact fetch_of_phase rfl hp

/-- A code placed is fetched as the instruction it decodes to. -/
theorem fetch_placeCode {c : Code} {i : Instr} (h : decode c = .ok i) : (e.placeCode c).fetch = .run i := by
  cases c with
  | cmd w => exact fetch_of_offer rfl rfl rfl rfl h
  | phase c =>
    cases hd : decodePhase c with
    | error b => simp [decode, hd, Except.map] at h
    | ok ph =>
      obtain rfl : ph.instr = i := by simpa [decode, hd, Except.map] using h
      simp only [Engine.placeCode, hd]
      exact fetch_placePhase ph e

/-- Settles O7: the code of the word is placed, and so fetched. -/
theorem fetchWordRuns : Obligations.FetchWordRuns := by
  intro s nbits w i hi t ht
  obtain ⟨c, hc, hd⟩ := decodeTableWord_eq_some_iff.mp hi
  refine step_of_fetch ?_ ht
  simp only [State.withFetchWord, hc, State.onSelf_self]
  exact fetch_placeCode hd

/-! ## What IDLE and an acceptance do (R162) -/

/-- An instruction by what it does to the instance that runs it. -/
theorem exec_of_unitOf {i : Instr} {g : Engine → Engine} (h : unitOf s.fullBlock i s.self = g s.self) :
    exec i s = .next (s.onSelf g) := by
  rw [exec_eq, State.onSelf, State.onSelf, h]

/-- Where a legal word is offered, IDLE is that word's command. -/
theorem unitOf_idle_of_offer {i : Instr} (hv : e.cmdValid = true) (hb : e.BUSY = false) (hd : decodeCommand e.cmd = .ok i) :
    unitOf p .idle e = unitOf p i e := by
  have ho : e.offered = true := by simp [Engine.offered, Engine.cmdReady, hv, hb]
  exact (if_pos ho).trans (acceptWord_of_ok hd)

/-- Settles O9: IDLE as it waits and as it accepts. -/
theorem idleWaitsOrAccepts : Obligations.IdleWaitsOrAccepts := by
  refine fun s => ⟨fun hn => ?wait, fun hv hb i hd => ?accept⟩
  case wait => exact exec_of_unitOf (unitOf_idle_of_not_offered (not_offered_iff.mpr hn))
  case accept => exact ⟨_, exec_eq i s, exec_of_unitOf (unitOf_idle_of_offer hv hb hd)⟩

/-- Settles O13: each of the four passes its checks and starts. -/
theorem lifecycleCommandsStart : Obligations.LifecycleCommandsStart := by
  intro s v hf
  refine ⟨?init, ?ctxwr, fun hb => ⟨?reset, ?ctxrd⟩⟩
  case init => exact exec_of_unitOf (acceptInit_of_ok hf v)
  case ctxwr => exact exec_of_unitOf (acceptCtxwr_of_ok hf v)
  case reset => exact exec_of_unitOf (acceptReset_of_ready ⟨hf, hb⟩)
  case ctxrd => exact exec_of_unitOf (acceptCtxrd_of_ready ⟨hf, hb⟩)

/-- Settles O14: a whole block passes ABSORB's check. -/
theorem absorbStarts : Obligations.AbsorbStarts := by
  rintro s _ hready rfl
  exact exec_of_unitOf (acceptAbsorb_of_ready hready)

/-- Settles O15: FINAL passes its checks, and starts where the length of the block says. -/
theorem finalStarts : Obligations.FinalStarts := by
  refine fun s len hready => ⟨fun hlt => ?short, fun heq hp => ?full⟩
  case short => exact exec_of_unitOf ((acceptFinal_of_ready hready hlt.le (absurd · hlt.ne)).trans (if_neg hlt.ne))
  case full => exact exec_of_unitOf ((acceptFinal_of_ready hready heq.le fun _ => hp).trans (if_pos heq))

/-! ## Nothing is stuck (R172) -/

/-- Settles O49. -/
theorem everyStepAnswers : Obligations.EveryStepAnswers :=
  ⟨fun s => ⟨_, step_eq s⟩, fun i s => ⟨_, exec_eq i s⟩⟩

end Sys2Proof.Machine
end

section
/-! Exceptions (60_exceptions.md): the five faults (R181 to R186), the dead engine (R189), the order of the checks of an acceptance
(R187), and what instances share, which is nothing (R200). -/

namespace Sys2Proof.Machine

variable {p : FullBlockFinal} {e f : Engine} {s : State}

/-! ## The two ways an acceptance ends without a command (R184, R189) -/

/-- Fault entry at an acceptance, everything it does (R184). -/
theorem take_takeFault_eq {b : Bool} (hb : e.BOUND = b) (c : Cause) :
    e.take.takeFault c =
      { e with FAULT := true, CAUSE := c, DOUT := zeroBytes 64, SEQ := Seq.rest, BUSY := false, cmdValid := false,
               rsp := some (faultResponse c b) } := by
  subst hb
  exact takeFault_eq c e.take

/-- The dead response at an acceptance, everything it does (R189). -/
theorem take_respond_eq (hf : e.FAULT = true) :
    e.take.respond =
      { e with SEQ := Seq.rest, BUSY := false, cmdValid := false, rsp := some (faultResponse e.CAUSE e.BOUND) } :=
  finish_of_fault (e := e.take) hf 0 0 (zeroBytes 200)

/-! ## The faults of a command (R182, R183, R185, R186) -/

/-- The four commands that need a bound instance take E_UNBOUND on another (R182). -/
theorem unitOf_of_unbound {i : Instr} (hf : e.FAULT = false) (hb : e.BOUND = false)
    (hi : i = .reset ∨ i = .ctxrd ∨ (∃ len, i = .absorb len) ∨ ∃ len, i = .final len) :
    unitOf p i e = e.take.takeFault .unbound := by
  obtain rfl | rfl | ⟨len, rfl⟩ | ⟨len, rfl⟩ := hi
  all_goals
    simp only [unitOf]
    exact accept_of_unbound hf rfl hb

theorem acceptAbsorb_of_ne_rate {len : Nat} (h : e.Ready) (hl : len ≠ e.VSEL.rate) :
    acceptAbsorb len e = e.take.takeFault .blockLen :=
  accept_of_check h.1 (fun _ => h.2) (if_pos hl)

theorem acceptFinal_of_rate_lt {len : Nat} (h : e.Ready) (hl : e.VSEL.rate < len) :
    acceptFinal p len e = e.take.takeFault .validLen :=
  accept_of_check h.1 (fun _ => h.2) (if_pos hl)

/-- A padding count outside 1..rate is E_PAD_INTERNAL (R186). -/
theorem acceptFinal_of_npad {len : Nat} (h : e.Ready) (hl : len ≤ e.VSEL.rate)
    (hn : npad p e.VSEL.rate len < 1 ∨ (e.VSEL.rate : Int) < npad p e.VSEL.rate len) :
    acceptFinal p len e = e.take.takeFault .padInternal :=
  accept_of_check h.1 (fun _ => h.2) ((if_neg hl.not_gt).trans (if_pos hn))

/-- Under `fatal` a full block leaves nothing to pad (R186). -/
theorem npad_fatal_self (r : Nat) : npad .fatal r r = 0 := by simp [npad]

@[simp] theorem startFinal_FAULT (len : Nat) (e : Engine) : (startFinal len e).FAULT = e.FAULT := by rw [startFinal_eq]
@[simp] theorem startFinal_BUSY (len : Nat) (e : Engine) : (startFinal len e).BUSY = e.BUSY := by rw [startFinal_eq]
@[simp] theorem startFinal_BOUND (len : Nat) (e : Engine) : (startFinal len e).BOUND = e.BOUND := by rw [startFinal_eq]
@[simp] theorem startFinal_CAUSE (len : Nat) (e : Engine) : (startFinal len e).CAUSE = e.CAUSE := by rw [startFinal_eq]
@[simp] theorem startFinal_OPC (len : Nat) (e : Engine) : (startFinal len e).SEQ.OPC = .final := by
  unfold startFinal
  split <;> rfl

/-- Settles O16: the bound check comes before the command's own. -/
theorem unboundCommandsFault : Obligations.UnboundCommandsFault := fun _ _ hf hb hi =>
  exec_of_unitOf ((unitOf_of_unbound hf hb hi).trans (take_takeFault_eq hb .unbound))

/-- Settles O17: ABSORB's own check. -/
theorem wrongBlockLengthFaults : Obligations.WrongBlockLengthFaults := fun _ _ hready hl =>
  exec_of_unitOf ((acceptAbsorb_of_ne_rate hready hl).trans (take_takeFault_eq hready.2 .blockLen))

/-- Settles O18: FINAL's first check, which P_FULLBLOCK_FINAL does not enter. -/
theorem wrongValidLengthFaults : Obligations.WrongValidLengthFaults := fun _ _ hready hl =>
  exec_of_unitOf ((acceptFinal_of_rate_lt hready hl).trans (take_takeFault_eq hready.2 .validLen))

/-- Settles O19: under `fatal` the padding count of a full block is 0; every other FINAL up to the rate starts. -/
theorem padInternalFaults : Obligations.PadInternalFaults := by
  refine fun s len hready hle => ⟨fun hp heq => ?fault, fun hok => ?start⟩
  case fault =>
    have hn : npad s.fullBlock s.self.VSEL.rate len < 1 := by
      rw [hp, heq, npad_fatal_self]
      decide
    exact exec_of_unitOf ((acceptFinal_of_npad hready hle (.inl hn)).trans (take_takeFault_eq hready.2 .padInternal))
  case start =>
    have hstart : acceptFinal s.fullBlock len s.self = startFinal len s.self.take :=
      acceptFinal_of_ready hready hle fun heq => hok.resolve_right (absurd heq)
    exact ⟨s.onSelf fun e => startFinal len e.take, exec_of_unitOf hstart, by simp [hready.1], by simp⟩

/-! ## A step that accepts a word (R181, R189) -/

/-- A step by what it does to the instance whose turn it is. -/
theorem step_of_engineStep {g : Engine → Engine} (h : engineStep s.fullBlock s.self = g s.self) :
    step s = .next (s.onSelf g).after := by
  rw [step_eq, State.onSelf, State.onSelf, h]

/-- The step of an idle engine to which a word is offered is the acceptance of that word, legal or not. -/
theorem engineStep_of_offer (hr : e.rst = false) (hp : e.SEQ.PHASE = .idle) (hb : e.BUSY = false) (hv : e.cmdValid = true) :
    engineStep p e = acceptWord p e := by
  obtain ⟨-, -, i, hd, hf⟩ | ⟨-, -, b, hd, hf⟩ | ⟨hn, -⟩ := fetch_cases hr hp
  · rw [engineStep, hf, acceptWord_of_ok hd]
  · rw [engineStep, hf, acceptWord_of_error hd]
  · exact absurd ⟨hv, hb⟩ hn

theorem acceptIllegal_of_ok (hf : e.FAULT = false) : e.acceptIllegal = e.take.takeFault .illegalCmd :=
  if_neg (by simp [hf])

theorem acceptIllegal_of_fault (hf : e.FAULT = true) : e.acceptIllegal = e.take.respond :=
  if_pos hf

/-- A dead engine answers each command with the dead response (R189). -/
theorem unitOf_of_fault {i : Instr} (hf : e.FAULT = true)
    (hi : (∃ v, i = .init v) ∨ i = .reset ∨ (∃ n, i = .absorb n) ∨ (∃ n, i = .final n) ∨ i = .ctxrd ∨
      ∃ v, i = .ctxwr v) :
    unitOf p i e = e.take.respond := by
  obtain ⟨v, rfl⟩ | rfl | ⟨n, rfl⟩ | ⟨n, rfl⟩ | rfl | ⟨v, rfl⟩ := hi
  all_goals
    simp only [unitOf]
    exact accept_of_fault hf

/-- A dead engine answers each word with the dead response (R189). -/
theorem acceptWord_of_fault (hf : e.FAULT = true) : acceptWord p e = e.take.respond := by
  cases hd : decodeCommand e.cmd with
  | ok i => rw [acceptWord_of_ok hd, unitOf_of_fault hf (decodeCommand_is_command hd)]
  | error b => rw [acceptWord_of_error hd, acceptIllegal_of_fault hf]

/-- Settles O20: the step is the acceptance of the illegal word. -/
theorem illegalWordFaults : Obligations.IllegalWordFaults := by
  intro s b hr hp hb hv hf hd
  refine step_of_engineStep ?_
  calc engineStep s.fullBlock s.self
    _ = acceptWord s.fullBlock s.self := engineStep_of_offer hr hp hb hv
    _ = s.self.acceptIllegal := acceptWord_of_error hd
    _ = s.self.take.takeFault .illegalCmd := acceptIllegal_of_ok hf
    _ = _ := take_takeFault_eq rfl .illegalCmd

/-- Settles O21: the dead check comes first in every acceptance; at a boundary SEQ and BUSY are at rest already. -/
theorem deadEngineAnswers : Obligations.DeadEngineAnswers := by
  refine fun s hf => ⟨fun i hi => ?command, fun hr hq hb hv => ?word⟩
  case command => exact exec_of_unitOf ((unitOf_of_fault hf hi).trans (take_respond_eq hf))
  case word =>
    refine step_of_engineStep ?_
    rw [engineStep_of_offer hr (by rw [hq]; rfl) hb hv, acceptWord_of_fault hf, take_respond_eq hf, ← hq, ← hb]

/-! ## A fault is permanent (R189) -/

/-- A dead engine's step, short of a hard reset, gives the dead response or waits. -/
theorem Engine.Inv.engineStep_of_fault (h : e.Inv p) (hf : e.FAULT = true) (hr : e.rst = false) :
    Machine.engineStep p e = e.take.respond ∨ Machine.engineStep p e = { e with rsp := none } := by
  obtain ⟨hp, -⟩ := h.dead hf
  obtain ⟨-, hb⟩ := h.at_boundary hp
  by_cases hv : e.cmdValid = true
  · exact .inl ((engineStep_of_offer hr hp hb hv).trans (acceptWord_of_fault hf))
  · have hn : ¬ (e.cmdValid = true ∧ e.BUSY = false) := fun ho => hv ho.1
    right
    rw [Machine.engineStep, fetch_of_not_offered hr hp hn]
    exact unitOf_idle_of_not_offered hn

/-- Settles O23: the dead response and waiting keep every register, and SEQ and DOUT stand at rest by the invariant. -/
theorem faultIsPermanent : Obligations.FaultIsPermanent := by
  intro s h hf hr
  obtain ⟨hp, hdout⟩ := h.dead hf
  refine ⟨engineStep s.fullBlock s.self, step_eq s, ?_⟩
  obtain heq | heq := h.engineStep_of_fault hf hr
  all_goals rw [heq]
  · rw [take_respond_eq hf]
    exact ⟨hf, rfl, rfl, rfl, rfl, hdout, rfl, fun r hrsp => (Option.some.inj hrsp).symm⟩
  · exact ⟨hf, rfl, rfl, rfl, rfl, hdout, h.rest hp, nofun⟩

/-! ## The order of the checks (R187) -/

/-- An acceptance that took e to f gave the dead response (R189). -/
def Engine.AnsweredDead (e f : Engine) : Prop :=
  f.FAULT = true ∧ f.CAUSE = e.CAUSE ∧ f.BUSY = false ∧ f.S = e.S ∧ f.VSEL = e.VSEL ∧ f.BOUND = e.BOUND ∧
    f.rsp = some (faultResponse e.CAUSE e.BOUND)

/-- An acceptance that took e to f entered the fault c (R184). -/
def Engine.Faulted (c : Cause) (e f : Engine) : Prop :=
  f.FAULT = true ∧ f.CAUSE = c ∧ f.BUSY = false ∧ f.S = e.S ∧ f.VSEL = e.VSEL ∧ f.BOUND = e.BOUND ∧
    f.DOUT = zeroBytes 64 ∧ f.rsp = some (faultResponse c e.BOUND)

/-- An acceptance that ended in f started the command of the word w (45_sequencer.md R162). -/
def Engine.Started (w : CmdWord) (f : Engine) : Prop :=
  f.FAULT = false ∧ f.BUSY = true ∧ f.BOUND = true ∧ f.SEQ.OPC.code = opcField w

theorem Engine.AnsweredDead.of_respond (hf : e.FAULT = true) (h : f = e.take.respond) : e.AnsweredDead f := by
  rw [h, take_respond_eq hf]
  exact ⟨hf, rfl, rfl, rfl, rfl, rfl, rfl⟩

theorem Engine.Faulted.of_takeFault {c : Cause} (h : f = e.take.takeFault c) : e.Faulted c f := by
  rw [h, take_takeFault_eq rfl]
  exact ⟨rfl, rfl, rfl, rfl, rfl, rfl, rfl, rfl⟩

/-- A word that matches no row of the table is illegal (30_encoding.md R71, R75). -/
theorem acceptWord_of_no_row (hf : e.FAULT = false) (h : ∀ r ∈ cmdRows, r.matchesWord e.cmd = false) :
    acceptWord p e = e.take.takeFault .illegalCmd := by
  obtain ⟨-, -, hillegal⟩ := commandTableDecides e.cmd
  obtain ⟨b, hd⟩ := hillegal h
  rw [acceptWord_of_error hd, acceptIllegal_of_ok hf]

/-- A word that matches a row is legal (30_encoding.md R71). -/
theorem decodes_of_row {w : CmdWord} (h : ¬ ∀ r ∈ cmdRows, r.matchesWord w = false) : ∃ i, decodeCommand w = .ok i := by
  push Not at h
  obtain ⟨r, hr, hm⟩ := h
  exact decodes_of_matchesWord hr (by simpa using hm)

/-- The opcodes of the commands that need a bound instance: RESET, ABSORB, FINAL, CTXRD (R182). -/
def NeedsBound (w : CmdWord) : Prop :=
  opcField w = 0x2 ∨ opcField w = 0x3 ∨ opcField w = 0x4 ∨ opcField w = 0x5

/-- A legal word with the opcode of a command that needs a bound instance takes E_UNBOUND on another (R182). -/
theorem acceptWord_of_unbound {i : Instr} (hd : decodeCommand e.cmd = .ok i) (hf : e.FAULT = false) (hb : e.BOUND = false)
    (ho : NeedsBound e.cmd) : acceptWord p e = e.take.takeFault .unbound := by
  rw [acceptWord_of_ok hd]
  refine unitOf_of_unbound hf hb ?_
  obtain ⟨hw, rfl⟩ | ⟨-, rfl⟩ | ⟨-, rfl⟩ | ⟨-, rfl⟩ | ⟨-, rfl⟩ | ⟨hw, rfl⟩ := decodeCommand_fields hd
  · simp [NeedsBound, hw] at ho
  · exact .inl rfl
  · exact .inr (.inr (.inl ⟨_, rfl⟩))
  · exact .inr (.inr (.inr ⟨_, rfl⟩))
  · exact .inr (.inl rfl)
  · simp [NeedsBound, hw] at ho

/-- A legal word with opcode 0x3 is an ABSORB. -/
theorem acceptWord_of_absorb {i : Instr} (hd : decodeCommand e.cmd = .ok i) (ho : opcField e.cmd = 0x3) :
    acceptWord p e = acceptAbsorb (lenField e.cmd).toNat e := by
  have hword := (decodeCommand_of_opcode (o := .absorb) ho).symm.trans hd
  obtain ⟨-, -, rfl⟩ := decodeLen_eq_ok_iff.mp hword
  exact acceptWord_of_ok hd

/-- A legal word with opcode 0x4 is a FINAL. -/
theorem acceptWord_of_final {i : Instr} (hd : decodeCommand e.cmd = .ok i) (ho : opcField e.cmd = 0x4) :
    acceptWord p e = acceptFinal p (lenField e.cmd).toNat e := by
  have hword := (decodeCommand_of_opcode (o := .final) ho).symm.trans hd
  obtain ⟨-, -, rfl⟩ := decodeLen_eq_ok_iff.mp hword
  exact acceptWord_of_ok hd

/-- A legal word starts its command once every check has passed. -/
theorem Engine.Started.of_checks {i : Instr} (hd : decodeCommand e.cmd = .ok i) (hf : e.FAULT = false)
    (hready : NeedsBound e.cmd → e.Ready)
    (ha : opcField e.cmd = 0x3 → absorbCheck (lenField e.cmd).toNat e = none)
    (hl : opcField e.cmd = 0x4 → finalCheck p (lenField e.cmd).toNat e = none) :
    Engine.Started e.cmd (acceptWord p e) := by
  rw [acceptWord_of_ok hd]
  obtain ⟨ho, rfl⟩ | ⟨ho, rfl⟩ | ⟨ho, rfl⟩ | ⟨ho, rfl⟩ | ⟨ho, rfl⟩ | ⟨ho, rfl⟩ := decodeCommand_fields hd
  all_goals simp only [unitOf, Engine.Started, ho]
  · rw [acceptInit_of_ok hf]
    exact ⟨hf, rfl, rfl, rfl⟩
  · have h : e.Ready := hready (.inl ho)
    rw [acceptReset_of_ready h]
    exact ⟨hf, rfl, h.2, rfl⟩
  · have h : e.Ready := hready (.inr (.inl ho))
    rw [acceptAbsorb, accept_starts hf (fun _ => h.2) (ha ho)]
    exact ⟨hf, rfl, h.2, rfl⟩
  · have h : e.Ready := hready (.inr (.inr (.inl ho)))
    rw [acceptFinal, accept_starts hf (fun _ => h.2) (hl ho)]
    simp [hf, h.2, Opc.code]
  · have h : e.Ready := hready (.inr (.inr (.inr ho)))
    rw [acceptCtxrd_of_ready h]
    exact ⟨hf, rfl, h.2, rfl⟩
  · rw [acceptCtxwr_of_ok hf]
    exact ⟨hf, rfl, rfl, rfl⟩

/-- Settles O22: the step is the acceptance of the word, and each condition that fails leaves the next one to be looked at. -/
theorem checksInOrder : Obligations.ChecksInOrder := by
  intro s hr hp hb hv
  refine ⟨_, step_eq s, ?_⟩
  rw [State.onSelf_self, engineStep_of_offer hr hp hb hv]
  intro e w n faulted
  split_ifs with hdead hill hunbound hblock hvalid hpad
  · exact Engine.AnsweredDead.of_respond hdead (acceptWord_of_fault hdead)
  all_goals have hf : e.FAULT = false := by simpa using hdead
  · exact Engine.Faulted.of_takeFault (acceptWord_of_no_row hf hill)
  all_goals obtain ⟨i, hd⟩ := decodes_of_row hill
  · obtain ⟨ho, hb⟩ := hunbound
    exact Engine.Faulted.of_takeFault (acceptWord_of_unbound hd hf hb ho)
  all_goals have hready : NeedsBound w → e.Ready := fun ho =>
    ⟨hf, Bool.eq_true_of_not_eq_false fun hb => hunbound ⟨ho, hb⟩⟩
  · obtain ⟨ho, hne⟩ := hblock
    have h : e.Ready := hready (.inr (.inl ho))
    exact Engine.Faulted.of_takeFault ((acceptWord_of_absorb hd ho).trans (acceptAbsorb_of_ne_rate h hne))
  · obtain ⟨ho, hlt⟩ := hvalid
    have h : e.Ready := hready (.inr (.inr (.inl ho)))
    exact Engine.Faulted.of_takeFault ((acceptWord_of_final hd ho).trans (acceptFinal_of_rate_lt h hlt))
  · obtain ⟨ho, hn⟩ := hpad
    have h : e.Ready := hready (.inr (.inr (.inl ho)))
    have hle : (lenField w).toNat ≤ e.VSEL.rate := not_lt.mp fun hlt => hvalid ⟨ho, hlt⟩
    exact Engine.Faulted.of_takeFault ((acceptWord_of_final hd ho).trans (acceptFinal_of_npad h hle hn))
  · exact Engine.Started.of_checks hd hf hready (fun ho => if_neg fun hne => hblock ⟨ho, hne⟩)
      fun ho => (if_neg fun hlt => hvalid ⟨ho, hlt⟩).trans (if_neg fun hn => hpad ⟨ho, hn⟩)

/-! ## Instances of one system (R200) -/

/-- Settles O56: the function is the turn of one engine; what surrounds it touches no other. -/
theorem instancesIndependent : Obligations.InstancesIndependent :=
  ⟨engineTurn, fun _ => ⟨_, step_eq _, State.after_instances _, State.after_fullBlock _⟩⟩

end Sys2Proof.Machine
end

section
/-! Reset and hazards (70_reset_and_hazards.md): hard reset at any time (R210), and a command offered to a busy engine (R220). -/

namespace Sys2Proof.Machine

variable {p : FullBlockFinal} {e : Engine}

/-! ## Hard reset (R210) -/

/-- `rst` comes before whatever the engine is doing. -/
theorem engineStep_of_rst (hr : e.rst = true) : engineStep p e = e.hardReset := by
  rw [engineStep, fetch_of_rst hr]

/-- STATUS after hard reset (10_state.md R34), whatever stands on the ports. -/
theorem hardReset_status (e : Engine) : e.hardReset.status = 0x00 :=
  calc e.hardReset.status
    _ = Engine.reset.status := rfl
    _ = 0x00 := rfl

/-- Settles O10: the state before the host moves is the one in which the engine has taken its hard reset. -/
theorem hardResetClears : Obligations.HardResetClears := by
  intro s hr
  exact ⟨s.onSelf Engine.hardReset, step_of_engineStep (engineStep_of_rst hr), rfl, rfl, rfl, rfl, rfl, rfl, rfl, rfl,
    hardReset_status s.self, rfl, rfl, rfl, rfl, rfl, rfl, rfl⟩

/-! ## A command offered to a busy engine (R220) -/

/-- BOUND, VSEL and FAULT: what only an acceptance or a hard reset writes (10_state.md R20, R21; 60_exceptions.md R184). -/
def Engine.binding (e : Engine) : Bool × Variant × Bool := (e.BOUND, e.VSEL, e.FAULT)

theorem binding_eq_iff {f : Engine} : f.binding = e.binding ↔ f.BOUND = e.BOUND ∧ f.VSEL = e.VSEL ∧ f.FAULT = e.FAULT := by
  simp only [Engine.binding, Prod.mk.injEq]

/-- No unit of a micro-program binds, unbinds or faults (60_exceptions.md R191). -/
theorem unitOf_binding {ph : Phase} (hp : ph ≠ .idle) : (unitOf p ph.instr e).binding = e.binding := by
  rw [binding_eq_iff]
  cases ph <;> simp only [Phase.instr, unitOf]
  case idle => exact absurd rfl hp
  case uIota =>
    by_cases hr : e.SEQ.RND.val < 23
    · simp [unitIota_of_lt hr]
    · simp [unitIota_of_eq hr]
  case uL2b => rw [unitL2b_frame]; simp
  case uPad => simp [unitPad]
  all_goals simp [unitZero_eq, unitXorin_eq, unitB2l_eq, unitTheta_eq, unitRhopi_eq, unitChi_eq, unitExtract_eq,
    unitNewblk_eq, unitCtxout_eq, unitCtxin_eq]

/-- A busy engine takes nothing from its ports and keeps its binding: its unit fires, or, in a state the invariant excludes, IDLE
waits. -/
theorem engineStep_of_busy (hr : e.rst = false) (hb : e.BUSY = true) :
    (engineStep p e).ports = e.ports ∧ (engineStep p e).binding = e.binding := by
  by_cases hp : e.SEQ.PHASE = .idle
  · have hn : ¬ (e.cmdValid = true ∧ e.BUSY = false) := not_offered_iff.mpr (.inr hb)
    have hwait : engineStep p e = { e with rsp := none } := by
      rw [engineStep, fetch_of_not_offered hr hp hn]
      exact unitOf_idle_of_not_offered hn
    rw [hwait]
    exact ⟨rfl, rfl⟩
  · have hunit : engineStep p e = unitOf p e.SEQ.PHASE.instr e := by
      rw [engineStep, fetch_of_phase hr hp]
    rw [hunit]
    exact ⟨unitOf_ports hp, unitOf_binding hp⟩

/-- While a busy engine runs, the host waits with what it offers (log 7). -/
theorem engineTurn_of_busy (hr : e.rst = false) (hb : e.BUSY = true) (hs : e.HostStill) :
    (engineTurn p e).ports = e.ports ∧ (engineTurn p e).binding = e.binding := by
  have hstep := engineStep_of_busy (p := p) hr hb
  have hwaits : engineTurn p e = engineStep p e := Engine.hostMoves_of_still (hs.of_ports hstep.1)
  rwa [hwaits]

/-- Settles O60: the step is a turn of the busy engine, whose host waits with its offer. -/
theorem busyEngineLeavesOffer : Obligations.BusyEngineLeavesOffer := by
  intro s hr hb hv
  obtain ⟨hports, hbinding⟩ := engineTurn_of_busy (p := s.fullBlock) hr hb (.inl hv)
  obtain ⟨-, hvalid, hcmd, hblk, hctx, hhost⟩ := ports_eq_iff.mp hports
  obtain ⟨hbound, hvsel, hfault⟩ := binding_eq_iff.mp hbinding
  exact ⟨engineTurn s.fullBlock s.self, step_eq s, hvalid.trans hv, hcmd, hblk, hctx, hhost, hbound, hvsel, hfault⟩

end Sys2Proof.Machine
end
